-- ==== Sys2Proof/Word.lean ====
section
/-! DEFINITION. The widths the spec gives its words (30_encoding.md R70, 10_state.md R20). -/

namespace Sys2Proof

/-- One byte of a transport (20_memory.md R53). -/
abbrev Byte := BitVec 8

/-- A CMD word: one host command, 32 bits (30_encoding.md R70). -/
abbrev CmdWord := BitVec 32

/-- An EVT code: the label of one internal step, 8 bits (30_encoding.md R70, R78). -/
abbrev EvtCode := BitVec 8

/-- DATA of a response, 64 bits (30_encoding.md R76). -/
abbrev Data := BitVec 64

/-- A GPIO line index, 4 bits (30_encoding.md R71, R75). -/
abbrev LineIdx := BitVec 4

/-- A phase, 2 bits (10_state.md R20, R25). -/
abbrev Phase := BitVec 2

/-- The places for GPIO lines: NUM_LINES is at most 16 (00_scope.md R8), one level each. -/
abbrev Pins := Vector Bool 16

end Sys2Proof
end

