-- ==== Sys2Proof/Config.lean ====
section
/-! DEFINITION. The parameters of 00_scope.md R8 and the free values: what the spec leaves open is an opaque
constant with no body, so that no proof can see its value. Configuration is not state (10_state.md R38). -/

namespace Sys2Proof

/-- The parameters of 00_scope.md R8. The shared operations take them as an argument. -/
structure Params where
  /-- NUM_LINES: how many GPIO lines exist. -/
  numLines : Nat
  /-- SPURIOUS_NOTIFY: whether NOTIFY_X may set pendX with no level change (D5). -/
  spuriousNotify : Bool
  /-- EDGE_LOSS: whether a level change may leave pendX unchanged (D6). -/
  edgeLoss : Bool
  /-- TURNS_NAN: the pattern of 0/0 (D22). -/
  turnsNan : BitVec 32
  /-- DEFAULT_SPR: steps per revolution when the assembler form omits it (R83). -/
  defaultSpr : BitVec 16
deriving DecidableEq, Repr

/-- How many lines there are beyond the two every block needs: NUM_LINES is OPEN between 2 and 16
(00_scope.md R8, D19; log entry 7). -/
opaque Config.linesBeyondTwo : Fin 15

/-- NUM_LINES, OPEN with 2 ≤ NUM_LINES ≤ 16 (00_scope.md R8). -/
def Config.numLines : Nat := Config.linesBeyondTwo.val + 2

/-- The bits of TURNS_NAN the spec leaves open: the sign, then the 22 bits under the quiet bit
(00_scope.md R8, D22; log entry 8). -/
opaque Config.nanFreeBits : BitVec 23

/-- TURNS_NAN, OPEN: any quiet binary32 NaN, exponent all ones and bit 22 set (00_scope.md R8, D22, G1). -/
def Config.turnsNan : BitVec 32 :=
  (Config.nanFreeBits.extractLsb' 22 1 ++ (0x1FF#9 ++ Config.nanFreeBits.extractLsb' 0 22)).cast rfl

/-- The parameters of this hardware (00_scope.md R8, the column 'value for this hardware'; log entry 9). -/
def Config.params : Params where
  numLines := Config.numLines
  spuriousNotify := true
  edgeLoss := false
  turnsNan := Config.turnsNan
  defaultSpr := 4000

/-- The level the ENV supplies on each line at power-on: no pin has a defined one (10_state.md R33, I13;
log entry 6). -/
opaque Config.powerOnLevel : Nat → Bool

/-- The draws `lose` of 40_notifier.md R101, used only when EDGE_LOSS is true (log entry 9). -/
opaque Config.loseEdge : Nat → Bool

/-- Which of the enabled notifier and decoder steps runs next when nothing is scheduled: any of them may
(20_memory.md R58, R59; log entry 2). -/
opaque Config.pickStep : Nat → Nat

end Sys2Proof
end

