-- ==== Sys2Proof/Syntax.lean ====
section
/-! DEFINITION. The instructions (one constructor per row of spec/opcode_table.json: the nine host commands and the
eight step labels), the agents they belong to, their codes, and the steps that can be scheduled. -/

namespace Sys2Proof

/-- The two input lines of the block. -/
inductive Line where
  | a
  | b
deriving DecidableEq, Repr

/-- One constructor per row of spec/opcode_table.json. Every operand has exactly the width its field has
(30_encoding.md R71, R75, R78), so every term is encodable. -/
inductive Instr where
  /-- CONSTRUCT la, lb, p, imm (42_commands.md R141). -/
  | construct (la lb : LineIdx) (p : Bool) (imm : BitVec 16)
  /-- RESET (42_commands.md R142). -/
  | reset
  /-- SET_SPR imm (42_commands.md R143). -/
  | setSpr (imm : BitVec 16)
  /-- GET_SPR (42_commands.md R144). -/
  | getSpr
  /-- GET_COUNT (42_commands.md R145). -/
  | getCount
  /-- GET_TURNS (42_commands.md R146). -/
  | getTurns
  /-- GET_INVALID (42_commands.md R148). -/
  | getInvalid
  /-- GET_STATUS (42_commands.md R149). -/
  | getStatus
  /-- DETACH (42_commands.md R150). -/
  | detach
  /-- NOTIFY_A (40_notifier.md R103). -/
  | notifyA
  /-- NOTIFY_B (40_notifier.md R104). -/
  | notifyB
  /-- SAMPLE_A (40_notifier.md R105). -/
  | sampleA
  /-- SAMPLE_B (40_notifier.md R106). -/
  | sampleB
  /-- DECODE_A (41_decoder.md R130). -/
  | decodeA
  /-- DECODE_B (41_decoder.md R131). -/
  | decodeB
  /-- PIN_A v: pin selA is driven to v (40_notifier.md R101, 30_encoding.md R78). -/
  | pinA (v : Bool)
  /-- PIN_B v: pin selB is driven to v (40_notifier.md R101, 30_encoding.md R78). -/
  | pinB (v : Bool)
deriving DecidableEq, Repr

/-- The row's mnemonic in spec/opcode_table.json. -/
def Instr.mnemonic : Instr → String
  | .construct _ _ _ _ => "CONSTRUCT"
  | .reset => "RESET"
  | .setSpr _ => "SET_SPR"
  | .getSpr => "GET_SPR"
  | .getCount => "GET_COUNT"
  | .getTurns => "GET_TURNS"
  | .getInvalid => "GET_INVALID"
  | .getStatus => "GET_STATUS"
  | .detach => "DETACH"
  | .notifyA => "NOTIFY_A"
  | .notifyB => "NOTIFY_B"
  | .sampleA => "SAMPLE_A"
  | .sampleB => "SAMPLE_B"
  | .decodeA => "DECODE_A"
  | .decodeB => "DECODE_B"
  | .pinA _ => "PIN_A"
  | .pinB _ => "PIN_B"

/-- The five agents (20_memory.md R57). They are no privilege modes (60_exceptions.md R193). -/
inductive Agent where
  | env
  | notifierA
  | notifierB
  | decoder
  | host
deriving DecidableEq, Repr

/-- The agent each step belongs to (20_memory.md R57). -/
def Instr.agent : Instr → Agent
  | .construct _ _ _ _ => .host
  | .reset => .host
  | .setSpr _ => .host
  | .getSpr => .host
  | .getCount => .host
  | .getTurns => .host
  | .getInvalid => .host
  | .getStatus => .host
  | .detach => .host
  | .notifyA => .notifierA
  | .notifyB => .notifierB
  | .sampleA => .notifierA
  | .sampleB => .notifierB
  | .decodeA => .decoder
  | .decodeB => .decoder
  | .pinA _ => .env
  | .pinB _ => .env

/-- A code of one of the two formats that carry an operation: a CMD word or an EVT code
(30_encoding.md R70). The format alone tells which decoder applies; no mode bit changes decoding. -/
inductive Code where
  | cmd (w : CmdWord)
  | evt (c : EvtCode)
deriving DecidableEq, Repr

/-- One step an agent takes: the one a code names, or PIN l, v on any GPIO line, which has no code when the line is
not selected or the block is detached (30_encoding.md R78). A scheduled CMD word is the HOST's issuing of it. -/
inductive Event where
  | code (c : Code)
  | pin (l : LineIdx) (v : Bool)
deriving DecidableEq, Repr

end Sys2Proof
end

