-- ==== Sys2Proof/WellFormed.lean ====
section
/-! DEFINITION. Well-formedness. Every Instr is well-formed by its types (each operand has its field's width, 30_encoding.md
R71, R75, and 'CONSTRUCT 15, 15' is a legal encoding, T-ENC-4), so the checks are on parameters and on scheduled steps. -/

namespace Sys2Proof

/-- A quiet binary32 NaN: exponent all ones and bit 22 set (00_scope.md R8, D22). -/
def isQuietNan (w : BitVec 32) : Bool := w.extractLsb' 22 9 == 0x1FF#9

/-- The limits 00_scope.md R8 puts on the open parameters. -/
def Params.wf (p : Params) : Bool := 2 ≤ p.numLines && p.numLines ≤ 16 && isQuietNan p.turnsNan

/-- The ten labels of 30_encoding.md R78. Every other 8-bit value is not a label. -/
def evtLabels : List EvtCode :=
  [0x11#8, 0x12#8, 0x21#8, 0x22#8, 0x31#8, 0x32#8, 0x41#8, 0x49#8, 0x42#8, 0x4A#8]

/-- A scheduled step is one of the spec's: a CMD word (any of them executes, 30_encoding.md R74), an EVT code that is a
label (R78), or PIN on a line that exists (40_notifier.md R101: l in 0 .. NUM_LINES-1). -/
def Event.wf (numLines : Nat) : Event → Bool
  | .code (.cmd _) => true
  | .code (.evt c) => evtLabels.contains c
  | .pin l _ => l.toNat < numLines

end Sys2Proof
end

