-- ==== Sys2Proof/Decode.lean ====
section
/-! DEFINITION. Decoding, total on every word and every byte string and rejecting by name, and the encoder, both written
from 30_encoding.md R71 to R74 and R78. -/

namespace Sys2Proof

/-- Why a code is no instruction. -/
inductive Reject where
  /-- OP is 0x0 or 0xA to 0xF (30_encoding.md R74). -/
  | reservedOp
  /-- A bit outside the row's free fields is set (30_encoding.md R73, R74). -/
  | reservedBits
  /-- The 8-bit value is not a label (30_encoding.md R78). -/
  | notALabel
  /-- A byte string that is neither one EVT code nor one CMD word: a decoder knows the length from the format alone
  (30_encoding.md R70). -/
  | badLength
deriving DecidableEq, Repr

/-- What a decoder answers. -/
inductive Decoded where
  | ok (i : Instr)
  | rejected (r : Reject)
deriving DecidableEq, Repr

/-- The instruction, if the code was one. -/
def Decoded.instr? : Decoded → Option Instr
  | .ok i => some i
  | .rejected _ => none

/-- The decoder of CMD words (30_encoding.md R74). Decoding is total: every word is one of the nine commands or illegal. -/
def decodeCmd (w : CmdWord) : Decoded :=
  let op := w.extractLsb' 28 4
  let low28 := w.extractLsb' 0 28
  if op = 0x1#4 ∧ w.extractLsb' 17 3 = 0#3 then
    .ok (.construct (w.extractLsb' 24 4) (w.extractLsb' 20 4) (w.getLsbD 16) (w.extractLsb' 0 16))
  else if op = 0x3#4 ∧ w.extractLsb' 16 12 = 0#12 then .ok (.setSpr (w.extractLsb' 0 16))
  else if op = 0x2#4 ∧ low28 = 0#28 then .ok .reset
  else if op = 0x4#4 ∧ low28 = 0#28 then .ok .getSpr
  else if op = 0x5#4 ∧ low28 = 0#28 then .ok .getCount
  else if op = 0x6#4 ∧ low28 = 0#28 then .ok .getTurns
  else if op = 0x7#4 ∧ low28 = 0#28 then .ok .getInvalid
  else if op = 0x8#4 ∧ low28 = 0#28 then .ok .getStatus
  else if op = 0x9#4 ∧ low28 = 0#28 then .ok .detach
  else if op = 0x0#4 ∨ 0xA#4 ≤ op then .rejected .reservedOp
  else .rejected .reservedBits

/-- The decoder of EVT codes: KIND in bits 7:4, V in bit 3 (PIN only, 0 otherwise), LINE in bits 2:0
(30_encoding.md R78). -/
def decodeEvt (c : EvtCode) : Decoded :=
  let kind := c.extractLsb' 4 4
  let v := c.getLsbD 3
  let line := c.extractLsb' 0 3
  if line = 1#3 then
    if kind = 1#4 ∧ v = false then .ok .notifyA
    else if kind = 2#4 ∧ v = false then .ok .sampleA
    else if kind = 3#4 ∧ v = false then .ok .decodeA
    else if kind = 4#4 then .ok (.pinA v)
    else .rejected .notALabel
  else if line = 2#3 then
    if kind = 1#4 ∧ v = false then .ok .notifyB
    else if kind = 2#4 ∧ v = false then .ok .sampleB
    else if kind = 3#4 ∧ v = false then .ok .decodeB
    else if kind = 4#4 then .ok (.pinB v)
    else .rejected .notALabel
  else .rejected .notALabel

/-- The decoder. The format alone tells which of the two applies (30_encoding.md R70, R79). -/
def decode : Code → Decoded
  | .cmd w => decodeCmd w
  | .evt c => decodeEvt c

/-- The bytes of a CMD word on a transport: byte k holds bits 8k+7 : 8k (20_memory.md R53). -/
def cmdBytes (w : CmdWord) : List Byte :=
  [w.extractLsb' 0 8, w.extractLsb' 8 8, w.extractLsb' 16 8, w.extractLsb' 24 8]

/-- The code a byte string carries: one byte is an EVT code, four bytes are a CMD word, byte 0 its bits 7:0
(30_encoding.md R70, 20_memory.md R53). -/
def codeOfBytes : List Byte → Option Code
  | [c] => some (.evt c)
  | [b0, b1, b2, b3] => some (.cmd ((b3 ++ (b2 ++ (b1 ++ b0))).cast rfl))
  | _ => none

/-- The decoder of a byte string, total. -/
def decodeBytes (bs : List Byte) : Decoded :=
  match codeOfBytes bs with
  | some c => decode c
  | none => .rejected .badLength

/-- A CMD word from its fields (30_encoding.md R71). -/
def cmdWord (op : BitVec 4) (la lb : LineIdx) (p : Bool) (imm : BitVec 16) : CmdWord :=
  (op ++ (la ++ (lb ++ (0#3 ++ (BitVec.ofBool p ++ imm))))).cast rfl

/-- An EVT code from its fields (30_encoding.md R78). -/
def evtCode (kind : BitVec 4) (v : Bool) (line : BitVec 3) : EvtCode :=
  (kind ++ (BitVec.ofBool v ++ line)).cast rfl

/-- The encoder (30_encoding.md R71 to R73, R78): a field an opcode does not use is 0. -/
def encode : Instr → Code
  | .construct la lb p imm => .cmd (cmdWord 0x1#4 la lb p imm)
  | .reset => .cmd (cmdWord 0x2#4 0#4 0#4 false 0#16)
  | .setSpr imm => .cmd (cmdWord 0x3#4 0#4 0#4 false imm)
  | .getSpr => .cmd (cmdWord 0x4#4 0#4 0#4 false 0#16)
  | .getCount => .cmd (cmdWord 0x5#4 0#4 0#4 false 0#16)
  | .getTurns => .cmd (cmdWord 0x6#4 0#4 0#4 false 0#16)
  | .getInvalid => .cmd (cmdWord 0x7#4 0#4 0#4 false 0#16)
  | .getStatus => .cmd (cmdWord 0x8#4 0#4 0#4 false 0#16)
  | .detach => .cmd (cmdWord 0x9#4 0#4 0#4 false 0#16)
  | .notifyA => .evt (evtCode 1#4 false 1#3)
  | .notifyB => .evt (evtCode 1#4 false 2#3)
  | .sampleA => .evt (evtCode 2#4 false 1#3)
  | .sampleB => .evt (evtCode 2#4 false 2#3)
  | .decodeA => .evt (evtCode 3#4 false 1#3)
  | .decodeB => .evt (evtCode 3#4 false 2#3)
  | .pinA v => .evt (evtCode 4#4 v 1#3)
  | .pinB v => .evt (evtCode 4#4 v 2#3)

/-- The bytes of a code on a transport. -/
def Code.bytes : Code → List Byte
  | .cmd w => cmdBytes w
  | .evt c => [c]

/-- The code a row of spec/opcode_table.json with nbits bits stands for: an EVT row has 8 bits, a CMD row 32
(log entry 20). -/
def codeOfTableWord (nbits w : Nat) : Option Code :=
  if nbits ≤ 8 then some (.evt (BitVec.ofNat 8 w))
  else if nbits ≤ 32 then some (.cmd (BitVec.ofNat 32 w))
  else none

/-- The instruction the decoder reads from an instruction whose bits are w, numbered as spec/opcode_table.json numbers
them, laid out as bytes and given to decodeBytes. -/
def decodeTableWord (nbits w : Nat) : Option Instr :=
  match codeOfTableWord nbits w with
  | some c => (decodeBytes c.bytes).instr?
  | none => none

end Sys2Proof
end

