-- ==== Sys2Proof/Machine/State.lean ====
section
/-! DEFINITION. The state of one QDEC block with its environment's pins and its response port, as plain data
(10_state.md R20 to R33, 30_encoding.md R76), and the machine right after power-on (70_reset_and_hazards.md R200). -/

namespace Sys2Proof.Machine

/-- The class of a transition, held in lastClass (10_state.md R30). -/
inductive StepClass where
  /-- No movement, code 0. -/
  | nomove
  /-- Forward, code 1. -/
  | fwd
  /-- Reverse, code 2. -/
  | rev
  /-- Invalid, code 3. -/
  | invalid
deriving DecidableEq, Repr

/-- The status ST of a response (30_encoding.md R76, 60_exceptions.md R181). -/
inductive Status where
  /-- ST 0: the command executed. -/
  | ok
  /-- ST 1: the word is illegal. -/
  | errIllegal
  /-- ST 2: the command is not allowed in the current attach state. -/
  | errState
  /-- ST 3: CONSTRUCT arguments out of range. -/
  | errArg
deriving DecidableEq, Repr

/-- The two bits of ST (30_encoding.md R76). -/
def Status.code : Status → BitVec 2
  | .ok => 0
  | .errIllegal => 1
  | .errState => 2
  | .errArg => 3

/-- A response: ST and DATA, delivered together (30_encoding.md R76). -/
structure Rsp where
  st   : Status
  data : Data
deriving DecidableEq, Repr

/-- The fields of the block that hold a value exactly while it is attached (10_state.md R20, R21): while att = 0 all
eleven hold ⊥ (log entry 4). -/
structure Encoder where
  /-- GPIO line used as line A (R22). -/
  selA      : LineIdx
  /-- GPIO line used as line B (R22). -/
  selB      : LineIdx
  /-- Pull mode: false pull-down, true pull-up (R23). -/
  pull      : Bool
  /-- Last-sampled level of line A (R24). -/
  lineA     : Bool
  /-- Last-sampled level of line B (R24). -/
  lineB     : Bool
  /-- Current decoded phase (R25). -/
  phase     : Phase
  /-- Phase immediately before the most recent update (R26). -/
  prevPhase : Phase
  /-- Signed step count, 64 bits two's complement (R27). -/
  count     : BitVec 64
  /-- Steps per revolution (R28). -/
  spr       : BitVec 16
  /-- Count of invalid transitions (R29). -/
  invCount  : BitVec 32
  /-- Class of the most recent transition (R30). -/
  lastClass : StepClass
deriving DecidableEq, Repr

/-- The whole machine. -/
structure State where
  /-- The eleven fields of `Encoder`; none is ⊥ in every one of them, which is att = 0 (R21; log entry 4). -/
  enc   : Option Encoder
  /-- A notification for line A waits to be sampled (R31). -/
  pendA : Bool
  /-- A notification for line B waits to be sampled (R31). -/
  pendB : Bool
  /-- Line A was sampled and its decode has not yet run (R32). -/
  dreqA : Bool
  /-- Line B was sampled and its decode has not yet run (R32). -/
  dreqB : Bool
  /-- The level of each GPIO line; ENV state (R33). Places from NUM_LINES on are no lines. -/
  pins  : Pins
  /-- The steps the agents take next, oldest first (20_memory.md R57, R58, R61; log entry 1). -/
  inbox : List Event
  /-- The response port: the last response, none before the first (30_encoding.md R76; log entry 5). -/
  rsp   : Option Rsp
  /-- How many free values have been drawn (log entry 16). -/
  draws : Nat
deriving DecidableEq, Repr

/-- att: 1 from a successful CONSTRUCT until DETACH (10_state.md R21; log entry 4). -/
def State.att (s : State) : Bool := s.enc.isSome

/-- The machine at power-on (70_reset_and_hazards.md R200): detached, every field of the block ⊥, no flag set. The
pins hold whatever the ENV supplies (10_state.md R33; log entry 6); the inbox is empty, no response has been given and
nothing has been drawn (log entries 5, 15, 16). -/
def State.reset : State where
  enc := none
  pendA := false
  pendB := false
  dreqA := false
  dreqB := false
  pins := Vector.ofFn fun l => Config.powerOnLevel l.val
  inbox := []
  rsp := none
  draws := 0

/-- Why the machine stops with a fault. No step of QDEC does (60_exceptions.md R180); the one reason is an input that is
no step. -/
inductive Fault where
  /-- Raised by the running of a scheduled PIN l, v with l ≥ NUM_LINES: the spec's lines are 0 .. NUM_LINES-1 (20_memory.md
  R51, 40_notifier.md R101), so there is no such pin. Safe (log entry 10). -/
  | noSuchLine (l : LineIdx)
deriving DecidableEq, Repr

/-- Why the machine refuses. -/
inductive Refusal where
  /-- Raised by exec for an instruction that has no meaning yet. No arm is left that does. Safe. -/
  | notModelled (mnemonic : String)
  /-- Raised by the running of a scheduled 8-bit code that is not one of the ten labels: 'Every other 8-bit value is not a
  label' (30_encoding.md R78), so it names no step. Safe (log entry 11). -/
  | notALabel (code : EvtCode)
deriving DecidableEq, Repr

end Sys2Proof.Machine
end

