-- ==== Sys2Proof/Machine/Operands.lean ====
section
/-! DEFINITION. Operands: line indices and the pins they name, the two lines' fields, signed 64-bit values, bytes of
DATA (30_encoding.md R75, 00_scope.md R9, 10_state.md R33, 20_memory.md R53). -/

namespace Sys2Proof.Machine

/-- CONSTRUCT's argument check, the indices compared as unsigned integers (30_encoding.md R75, 42_commands.md R141):
both lines exist and they differ. -/
def argsOk (numLines : Nat) (la lb : LineIdx) : Bool :=
  la.toNat < numLines && lb.toNat < numLines && la != lb

/-- toSigned64: 64 bits as an integer in [-2^63, 2^63-1] (00_scope.md R9). -/
def toSigned64 (v : BitVec 64) : Int := v.toInt

/-- bits64: an integer as 64 bits modulo 2^64 (00_scope.md R9). -/
def bits64 (i : Int) : BitVec 64 := BitVec.ofInt 64 i

/-- zext_64: zero extension (00_scope.md R9). -/
def zext64 {n : Nat} (v : BitVec n) : Data := v.setWidth 64

/-- pin(l): the current level of GPIO line l (10_state.md R33). Reading it has no side effect (20_memory.md R56). -/
def State.pin (s : State) (l : LineIdx) : Bool := s.pins[l.toNat]'l.isLt

/-- pin(l) <- v: the ENV drives line l (40_notifier.md R101). -/
def State.drive (s : State) (l : LineIdx) (v : Bool) : State := { s with pins := s.pins.set l.toNat v l.isLt }

/-- selX: the GPIO line used as line X (10_state.md R22). -/
def Encoder.sel (e : Encoder) : Line → LineIdx
  | .a => e.selA
  | .b => e.selB

/-- lineX: the last-sampled level of line X (10_state.md R24). -/
def Encoder.level (e : Encoder) : Line → Bool
  | .a => e.lineA
  | .b => e.lineB

/-- lineX <- v, the other line untouched (40_notifier.md R105, R106). -/
def Encoder.setLevel (e : Encoder) (v : Bool) : Line → Encoder
  | .a => { e with lineA := v }
  | .b => { e with lineB := v }

/-- pendX (10_state.md R31). -/
def State.pend (s : State) : Line → Bool
  | .a => s.pendA
  | .b => s.pendB

/-- pendX <- v. -/
def State.setPend (s : State) (v : Bool) : Line → State
  | .a => { s with pendA := v }
  | .b => { s with pendB := v }

/-- dreqX (10_state.md R32). -/
def State.dreq (s : State) : Line → Bool
  | .a => s.dreqA
  | .b => s.dreqB

/-- dreqX <- v. -/
def State.setDreq (s : State) (v : Bool) : Line → State
  | .a => { s with dreqA := v }
  | .b => { s with dreqB := v }

/-- The bytes of DATA on a transport: byte k holds bits 8k+7 : 8k (20_memory.md R53). -/
def dataBytes (d : Data) : List Byte :=
  [d.extractLsb' 0 8, d.extractLsb' 8 8, d.extractLsb' 16 8, d.extractLsb' 24 8,
   d.extractLsb' 32 8, d.extractLsb' 40 8, d.extractLsb' 48 8, d.extractLsb' 56 8]

end Sys2Proof.Machine
end

