-- ==== Sys2Proof/Machine/Binary32.lean ====
section
/-! DEFINITION. The arithmetic of GET_TURNS: IEEE 754 binary32 with round-to-nearest, ties-to-even
(42_commands.md R147; 93_implementation_defined.md G1). -/

namespace Sys2Proof.Machine

/-- A positive binary value sig · 2^exp. -/
structure PosFloat where
  sig : Nat
  exp : Int
deriving DecidableEq, Repr

/-- The numerator of the value as a fraction. -/
def PosFloat.num (f : PosFloat) : Nat := f.sig * 2 ^ f.exp.toNat

/-- The denominator of the value as a fraction. -/
def PosFloat.den (f : PosFloat) : Nat := 2 ^ (-f.exp).toNat

/-- n / d to the nearest integer, ties to even. -/
def roundHalfEven (n d : Nat) : Nat :=
  let q := n / d
  let r := n % d
  if 2 * r < d then q else if d < 2 * r then q + 1 else q + q % 2

/-- n · 2^(-e), the part of the scaling by 2^(-e) that falls to the numerator. -/
def scaledNum (n : Nat) (e : Int) : Nat := n * 2 ^ (-e).toNat

/-- d · 2^e, the part of the scaling by 2^(-e) that falls to the denominator. -/
def scaledDen (d : Nat) (e : Int) : Nat := d * 2 ^ e.toNat

/-- The exponent e for which n / d · 2^(-e) lies in [2^23, 2^24): the one a 24-bit significand needs. -/
def leadExp (n d : Nat) : Int :=
  let e : Int := (n.log2 : Int) - (d.log2 : Int) - 23
  if 2 ^ 23 * scaledDen d e ≤ scaledNum n e then e else e - 1

/-- roundToBinary32 of the positive value n / d, to 24 significant bits, ties to even (42_commands.md R147). Values are
never outside the normal range there (R147), so there is no subnormal and no overflow case (log entry 14). -/
def roundToBinary32 (n d : Nat) : PosFloat :=
  let e := leadExp n d
  let m := roundHalfEven (scaledNum n e) (scaledDen d e)
  if m = 2 ^ 24 then { sig := 2 ^ 23, exp := e + 1 } else { sig := m, exp := e }

/-- The pattern of ±f: sign bit 31, exponent 30:23 biased by 127, fraction 22:0 (93_implementation_defined.md G1). -/
def packBinary32 (neg : Bool) (f : PosFloat) : BitVec 32 :=
  (BitVec.ofBool neg ++ (BitVec.ofInt 8 (f.exp + 23 + 127) ++ BitVec.ofNat 23 f.sig)).cast rfl

/-- turns32(count, spr) (42_commands.md R147): convert, then divide. -/
def turns32 (turnsNan : BitVec 32) (count : BitVec 64) (spr : BitVec 16) : BitVec 32 :=
  let c := toSigned64 count
  if spr = 0 then
    if 0 < c then 0x7F800000#32 else if c < 0 then 0xFF800000#32 else turnsNan
  else if c = 0 then 0
  else
    let cf := roundToBinary32 c.natAbs 1
    let sf := roundToBinary32 spr.toNat 1
    packBinary32 (decide (c < 0)) (roundToBinary32 (cf.num * sf.den) (cf.den * sf.num))

end Sys2Proof.Machine
end

