-- ==== Sys2Proof/Machine/Flags.lean ====
section
/-! DEFINITION. The flag computations: the phase map, the classification of a transition with its count and invalid-count
updates, and the STATUS word (41_decoder.md R120 to R129, 10_state.md R30, R39). -/

namespace Sys2Proof.Machine

/-- phaseOf(lineA, lineB): (0,0)→0, (1,0)→1, (1,1)→2, (0,1)→3 (41_decoder.md R120). -/
def phaseOf : Bool → Bool → Phase
  | false, false => 0
  | true, false => 1
  | true, true => 2
  | false, true => 3

/-- The two bits of lastClass (10_state.md R30). -/
def StepClass.code : StepClass → BitVec 2
  | .nomove => 0
  | .fwd => 1
  | .rev => 2
  | .invalid => 3

/-- delta = old - new, a mathematical integer in [-3, 3], signed, not modular (41_decoder.md R124). -/
def delta (old new : Phase) : Int := (old.toNat : Int) - (new.toNat : Int)

/-- The class of a delta (41_decoder.md R123 step 4, R125). The last arm is the source's defensive one, never taken on a
delta of two phases (R126; log entry 13). -/
def classify (d : Int) : StepClass :=
  if d.natAbs = 2 then .invalid
  else if d = 0 then .nomove
  else if d = 3 ∨ d = -1 then .fwd
  else if d = -3 ∨ d = 1 then .rev
  else .invalid

/-- count after a transition of class c: ±1 modulo 2^64 on a step, unchanged otherwise (41_decoder.md R125, R127). -/
def countAfter (c : StepClass) (count : BitVec 64) : BitVec 64 :=
  match c with
  | .nomove => count
  | .fwd => bits64 (toSigned64 count + 1)
  | .rev => bits64 (toSigned64 count - 1)
  | .invalid => count

/-- invCount after a transition of class c: + 1 modulo 2^32 when invalid (41_decoder.md R125, R128). -/
def invCountAfter (c : StepClass) (invCount : BitVec 32) : BitVec 32 :=
  match c with
  | .nomove => invCount
  | .fwd => invCount
  | .rev => invCount
  | .invalid => BitVec.ofNat 32 (invCount.toNat + 1)

/-- STATUS while attached: the concatenation of 42_commands.md R149, laid out as 10_state.md R39. -/
def statusWord (s : State) (e : Encoder) : Data :=
  zext64 (e.selB ++ (e.selA ++ (0#2 ++ (BitVec.ofBool e.pull ++
    (BitVec.ofBool s.dreqB ++ (BitVec.ofBool s.dreqA ++ (BitVec.ofBool s.pendB ++ (BitVec.ofBool s.pendA ++
    (e.lastClass.code ++ (e.prevPhase ++ (e.phase ++
    (BitVec.ofBool e.lineB ++ (BitVec.ofBool e.lineA ++ 1#1)))))))))))))

end Sys2Proof.Machine
end

