-- ==== Sys2Proof/Machine/Ops.lean ====
section
/-! DEFINITION. The shared operations the meanings are made of: answering a command, refusing one with an error status
(what QDEC has in place of an exception, 60_exceptions.md R180), seeding, the notifier's steps, the transition and the
decoder's steps. All of them are total. -/

namespace Sys2Proof.Machine

/-- respond(OK, d): the response of a command that executed (00_scope.md R10, 30_encoding.md R76). -/
def State.respond (s : State) (d : Data) : State := { s with rsp := some { st := .ok, data := d } }

/-- raise st: end the command with that status, DATA = 0 and no state written (00_scope.md R10, 60_exceptions.md
R180, R181). -/
def State.raise (s : State) (st : Status) : State := { s with rsp := some { st := st, data := 0 } }

/-- A command that needs att = 1: ERR_STATE while detached (42_commands.md R140). -/
def State.whileAttached (s : State) (f : Encoder → State) : State :=
  match s.enc with
  | none => s.raise .errState
  | some e => f e

/-- Seed the decoder from one synchronous sample (a, b) of both lines: phase = prevPhase, counts zero, NOMOVE
(42_commands.md R141, R142). -/
def Encoder.seed (e : Encoder) (a b : Bool) : Encoder :=
  { e with lineA := a, lineB := b, phase := phaseOf a b, prevPhase := phaseOf a b,
           count := 0, invCount := 0, lastClass := .nomove }

/-- CONSTRUCT la, lb, pull, imm (42_commands.md R141; the order of its errors is R182). -/
def attach (p : Params) (la lb : LineIdx) (pull : Bool) (imm : BitVec 16) (s : State) : State :=
  match s.enc with
  | some _ => s.raise .errState
  | none =>
    if argsOk p.numLines la lb then
      let a := s.pin la
      let b := s.pin lb
      ({ s with
          enc := some
            { selA := la, selB := lb, pull := pull, lineA := a, lineB := b,
              phase := phaseOf a b, prevPhase := phaseOf a b, count := 0, spr := imm,
              invCount := 0, lastClass := .nomove },
          pendA := false, pendB := false, dreqA := false, dreqB := false }).respond 0
    else s.raise .errArg

/-- RESET: re-seed from both pins and zero the counts; flags, selection, pull and spr stay (42_commands.md R142). -/
def reseed (s : State) : State :=
  s.whileAttached fun e =>
    ({ s with enc := some (e.seed (s.pin e.selA) (s.pin e.selB)) }).respond 0

/-- DETACH: every flag cleared, every field ⊥, att = 0 (42_commands.md R150). -/
def teardown (s : State) : State :=
  s.whileAttached fun _ =>
    ({ s with enc := none, pendA := false, pendB := false, dreqA := false, dreqB := false }).respond 0

/-- A command that reads: it answers what f computes and writes nothing else (20_memory.md R56). -/
def State.answer (s : State) (f : Encoder → Data) : State := s.whileAttached fun e => s.respond (f e)

/-- The edge detector: pin l goes to v; a change of level on a selected line while attached sets that line's pending
flag, unless EDGE_LOSS and the draw lose it (40_notifier.md R101, R102). -/
def pinChange (p : Params) (l : LineIdx) (v lose : Bool) (s : State) : State :=
  let old := s.pin l
  let s1 := s.drive l v
  match s.enc with
  | none => s1
  | some e =>
    if v != old && !(p.edgeLoss && lose) then
      { s1 with pendA := if l = e.selA then true else s.pendA,
                pendB := if l = e.selB then true else s.pendB }
    else s1

/-- PIN l, v: the draw lose is made only when EDGE_LOSS is true (40_notifier.md R101; log entry 9). -/
def pinStep (p : Params) (l : LineIdx) (v : Bool) (s : State) : State :=
  if p.edgeLoss then pinChange p l v (Config.loseEdge s.draws) { s with draws := s.draws + 1 }
  else pinChange p l v false s

/-- PIN_X v: PIN selX, v. While detached no line is selected, the label names no step and nothing happens
(30_encoding.md R78; log entry 3). -/
def pinLineStep (p : Params) (x : Line) (v : Bool) (s : State) : State :=
  match s.enc with
  | none => s
  | some e => pinStep p (e.sel x) v s

/-- NOTIFY_X: guard att = 1 and SPURIOUS_NOTIFY; pendX <- 1 (40_notifier.md R103, R104). Not enabled: nothing happens
(log entry 3). -/
def notifyStep (p : Params) (x : Line) (s : State) : State :=
  if s.att && p.spuriousNotify then s.setPend true x else s

/-- SAMPLE_X: guard att = 1 and pendX = 1; pendX <- 0, lineX <- pin(selX), dreqX <- 1 (40_notifier.md R105, R106). Not
enabled: nothing happens (log entry 3). -/
def sampleStep (x : Line) (s : State) : State :=
  match s.enc with
  | none => s
  | some e =>
    if s.pend x then
      { ((s.setPend false x).setDreq true x) with enc := some (e.setLevel (s.pin (e.sel x)) x) }
    else s

/-- transition(s) (41_decoder.md R123): the phase follows the stored lines, the class is recorded, and count or invCount
is adjusted by it. -/
def transition (e : Encoder) : Encoder :=
  let old := e.phase
  let new := phaseOf e.lineA e.lineB
  let c := classify (delta old new)
  { e with prevPhase := old, phase := new, lastClass := c,
           count := countAfter c e.count, invCount := invCountAfter c e.invCount }

/-- DECODE_X: guard att = 1 and dreqX = 1; dreqX <- 0, transition(s) (41_decoder.md R130, R131). Not enabled: nothing
happens (log entry 3). -/
def decodeStep (x : Line) (s : State) : State :=
  match s.enc with
  | none => s
  | some e => if s.dreq x then { (s.setDreq false x) with enc := some (transition e) } else s

/-- Whether a step's guard holds (00_scope.md R11). A command is always enabled; a PIN label needs its line
(30_encoding.md R78). -/
def enabled (p : Params) (s : State) : Instr → Bool
  | .construct _ _ _ _ => true
  | .reset => true
  | .setSpr _ => true
  | .getSpr => true
  | .getCount => true
  | .getTurns => true
  | .getInvalid => true
  | .getStatus => true
  | .detach => true
  | .notifyA => s.att && p.spuriousNotify
  | .notifyB => s.att && p.spuriousNotify
  | .sampleA => s.att && s.pendA
  | .sampleB => s.att && s.pendB
  | .decodeA => s.att && s.dreqA
  | .decodeB => s.att && s.dreqB
  | .pinA _ => s.att
  | .pinB _ => s.att

/-- Quiescent: no notification waits to be sampled or decoded (00_scope.md R12). -/
def State.quiescent (s : State) : Bool := !s.pendA && !s.pendB && !s.dreqA && !s.dreqB

end Sys2Proof.Machine
end

