-- ==== Sys2Proof/Machine/Commands.lean ====
section
/-! DEFINITION. The meanings of the nine host commands and of an illegal word (42_commands.md). -/

namespace Sys2Proof.Machine

/-- CONSTRUCT (42_commands.md R141). -/
def execConstruct (la lb : LineIdx) (p : Bool) (imm : BitVec 16) (s : State) : Host.Outcome State Fault Refusal :=
  .next (attach Config.params la lb p imm s)

/-- RESET (42_commands.md R142). -/
def execReset (s : State) : Host.Outcome State Fault Refusal := .next (reseed s)

/-- SET_SPR n, no validation (42_commands.md R143). -/
def execSetSpr (imm : BitVec 16) (s : State) : Host.Outcome State Fault Refusal :=
  .next (s.whileAttached fun e => ({ s with enc := some { e with spr := imm } }).respond 0)

/-- GET_SPR (42_commands.md R144). -/
def execGetSpr (s : State) : Host.Outcome State Fault Refusal := .next (s.answer fun e => zext64 e.spr)

/-- GET_COUNT: all 64 bits in one step (42_commands.md R145, 20_memory.md R54). -/
def execGetCount (s : State) : Host.Outcome State Fault Refusal := .next (s.answer fun e => e.count)

/-- GET_TURNS (42_commands.md R146). -/
def execGetTurns (s : State) : Host.Outcome State Fault Refusal :=
  .next (s.answer fun e => zext64 (turns32 Config.params.turnsNan e.count e.spr))

/-- GET_INVALID; reading does not clear the counter (42_commands.md R148). -/
def execGetInvalid (s : State) : Host.Outcome State Fault Refusal := .next (s.answer fun e => zext64 e.invCount)

/-- GET_STATUS, allowed while detached, where every field reads 0 (42_commands.md R149). -/
def execGetStatus (s : State) : Host.Outcome State Fault Refusal :=
  match s.enc with
  | none => .next (s.respond 0)
  | some e => .next (s.respond (statusWord s e))

/-- DETACH (42_commands.md R150). -/
def execDetach (s : State) : Host.Outcome State Fault Refusal := .next (teardown s)

/-- ILLEGAL: any CMD word that decodes to no command, in every state (42_commands.md R151, 30_encoding.md R74). -/
def execIllegal (s : State) : Host.Outcome State Fault Refusal := .next (s.raise .errIllegal)

end Sys2Proof.Machine
end

