-- ==== Sys2Proof/Machine/Decoder.lean ====
section
/-! DEFINITION. The meanings of the decoder's steps (41_decoder.md). -/

namespace Sys2Proof.Machine

/-- DECODE_A (41_decoder.md R130). -/
def execDecodeA (s : State) : Host.Outcome State Fault Refusal := .next (decodeStep .a s)

/-- DECODE_B (41_decoder.md R131). -/
def execDecodeB (s : State) : Host.Outcome State Fault Refusal := .next (decodeStep .b s)

end Sys2Proof.Machine
end

