-- ==== Sys2Proof/Machine/Notifier.lean ====
section
/-! DEFINITION. The meanings of the ENV's and the notifiers' steps (40_notifier.md). -/

namespace Sys2Proof.Machine

/-- NOTIFY_A (40_notifier.md R103). -/
def execNotifyA (s : State) : Host.Outcome State Fault Refusal := .next (notifyStep Config.params .a s)

/-- NOTIFY_B (40_notifier.md R104). -/
def execNotifyB (s : State) : Host.Outcome State Fault Refusal := .next (notifyStep Config.params .b s)

/-- SAMPLE_A (40_notifier.md R105). -/
def execSampleA (s : State) : Host.Outcome State Fault Refusal := .next (sampleStep .a s)

/-- SAMPLE_B (40_notifier.md R106). -/
def execSampleB (s : State) : Host.Outcome State Fault Refusal := .next (sampleStep .b s)

/-- PIN_A v (40_notifier.md R101, 30_encoding.md R78). -/
def execPinA (v : Bool) (s : State) : Host.Outcome State Fault Refusal := .next (pinLineStep Config.params .a v s)

/-- PIN_B v (40_notifier.md R101, 30_encoding.md R78). -/
def execPinB (v : Bool) (s : State) : Host.Outcome State Fault Refusal := .next (pinLineStep Config.params .b v s)

/-- PIN l, v on any GPIO line (40_notifier.md R101). A line the spec says does not exist faults (log entry 10). -/
def pinOnLine (p : Params) (l : LineIdx) (v : Bool) (s : State) : Host.Outcome State Fault Refusal :=
  if l.toNat < p.numLines then .next (pinStep p l v s) else .fault (.noSuchLine l)

/-- PIN l, v on this hardware's lines (40_notifier.md R101). -/
def execPin (l : LineIdx) (v : Bool) (s : State) : Host.Outcome State Fault Refusal := pinOnLine Config.params l v s

end Sys2Proof.Machine
end

