-- ==== Sys2Proof/Machine/Dispatch.lean ====
section
/-! DEFINITION. One arm per instruction. -/

namespace Sys2Proof.Machine

def exec (i : Instr) (s : State) : Host.Outcome State Fault Refusal :=
  match i with
  | .construct la lb p imm => Sys2Proof.Machine.execConstruct la lb p imm s
  | .reset => Sys2Proof.Machine.execReset s
  | .setSpr imm => Sys2Proof.Machine.execSetSpr imm s
  | .getSpr => Sys2Proof.Machine.execGetSpr s
  | .getCount => Sys2Proof.Machine.execGetCount s
  | .getTurns => Sys2Proof.Machine.execGetTurns s
  | .getInvalid => Sys2Proof.Machine.execGetInvalid s
  | .getStatus => Sys2Proof.Machine.execGetStatus s
  | .detach => Sys2Proof.Machine.execDetach s
  | .notifyA => Sys2Proof.Machine.execNotifyA s
  | .notifyB => Sys2Proof.Machine.execNotifyB s
  | .sampleA => Sys2Proof.Machine.execSampleA s
  | .sampleB => Sys2Proof.Machine.execSampleB s
  | .decodeA => Sys2Proof.Machine.execDecodeA s
  | .decodeB => Sys2Proof.Machine.execDecodeB s
  | .pinA v => Sys2Proof.Machine.execPinA v s
  | .pinB v => Sys2Proof.Machine.execPinB v s

end Sys2Proof.Machine
end

