-- ==== Sys2Proof/Machine/Fetch.lean ====
section
/-! DEFINITION. What runs next: a scheduled event, or, when nothing is scheduled, one of the notifier and decoder steps that
are enabled (20_memory.md R57, R58, R68). -/

namespace Sys2Proof.Machine

/-- Run the step a code names. An illegal CMD word executes as ILLEGAL (30_encoding.md R74); an 8-bit code that is not a
label names no step (R78; log entry 11). -/
def runCode (c : Code) (s : State) : Host.Outcome State Fault Refusal :=
  match decode c with
  | .ok i => exec i s
  | .rejected _ =>
    match c with
    | .cmd _ => execIllegal s
    | .evt l => .refused (.notALabel l)

/-- Run one scheduled event. -/
def runEvent (ev : Event) (s : State) : Host.Outcome State Fault Refusal :=
  match ev with
  | .code c => runCode c s
  | .pin l v => execPin l v s

/-- The notifier and decoder steps whose guards hold. NOTIFY_X is left to the schedule: it is the platform's, not the
block's own progress (40_notifier.md R103; log entry 2). -/
def pendingSteps (s : State) : List Instr :=
  [Instr.sampleA, Instr.sampleB, Instr.decodeA, Instr.decodeB].filter (enabled Config.params s)

/-- One of several steps, any of them: which one is the draw's (20_memory.md R58, R59). -/
def choose (steps : List Instr) (draw : Nat) : Option Instr :=
  match steps with
  | [] => none
  | [i] => some i
  | i :: j :: rest => (i :: j :: rest)[draw % (rest.length + 2)]?

/-- Nothing is scheduled: a pending step is taken, or, when the block is quiescent, the run has ended and nothing
changes (20_memory.md R68, D30; log entry 2). -/
def drain (s : State) : Host.Outcome State Fault Refusal :=
  match choose (pendingSteps s) (Config.pickStep s.draws) with
  | none => .next s
  | some i => exec i { s with draws := s.draws + 1 }

/-- The event a row of spec/opcode_table.json with nbits bits stands for, put at the head of the inbox. -/
def State.schedule (s : State) (nbits w : Nat) : State :=
  match codeOfTableWord nbits w with
  | some c => { s with inbox := .code c :: s.inbox }
  | none => s

end Sys2Proof.Machine
end

