-- ==== Sys2Proof/Machine/Step.lean ====
section
/-! DEFINITION. One step of the machine, and how an instruction is put where the next step takes it from. -/

namespace Sys2Proof.Machine

/-- One atomic step of one agent (20_memory.md R57, R58): the oldest scheduled event, else the draining of what is
pending. -/
def step (s : State) : Host.Outcome State Fault Refusal :=
  match s.inbox with
  | ev :: rest => runEvent ev { s with inbox := rest }
  | [] => drain s

/-- s with that instruction as the oldest scheduled event, so that the very next step runs it (log entry 15). -/
def State.withFetchWord (s : State) (nbits w : Nat) : State := s.schedule nbits w

end Sys2Proof.Machine
end

