-- ==== Sys2Proof/Machine/Assembler.lean ====
section
/-! DEFINITION. The assembler's language: one host command or one step label a line, with the pseudo-instructions
(30_encoding.md R82, R83, R78). It makes events; it is no part of the block. -/

namespace Sys2Proof.Machine

/-- An operand as written: a number, or a word (pulldown, pullup). -/
inductive Operand where
  | num (n : Nat)
  | word (w : String)
deriving DecidableEq, Repr

/-- Why a line is an assembly error. -/
inductive AsmError where
  /-- The mnemonic is none of R82, R83 or R78. -/
  | unknownMnemonic
  /-- The operands are not those of the mnemonic. -/
  | badOperands
  /-- An operand is out of its range: 'an assembly error, not an encoding' (R82). -/
  | outOfRange
deriving DecidableEq, Repr

/-- What assembling a line gives: nothing for an empty line, an event, or an error. -/
inductive Assembled where
  | blank
  | event (ev : Event)
  | error (e : AsmError)
deriving DecidableEq, Repr

/-- The event of an instruction. -/
def Assembled.ofInstr (i : Instr) : Assembled := .event (.code (encode i))

/-- CONSTRUCT la, lb, spr, pull with la, lb in 0..15 and spr in 0..65535 (R82). -/
def asmConstruct (la lb spr : Nat) (pull : Bool) : Assembled :=
  if la < 16 ∧ lb < 16 ∧ spr < 65536 then
    .ofInstr (.construct (BitVec.ofNat 4 la) (BitVec.ofNat 4 lb) pull (BitVec.ofNat 16 spr))
  else .error .outOfRange

/-- The pull-mode word: pulldown is 0, pullup is 1 (R82). -/
def asmPull (w : String) : Option Bool :=
  if w = "pulldown" then some false else if w = "pullup" then some true else none

/-- SET_SPR n with n in 0..65535 (R82). -/
def asmSetSpr (n : Nat) : Assembled :=
  if n < 65536 then .ofInstr (.setSpr (BitVec.ofNat 16 n)) else .error .outOfRange

/-- A level: 0 or 1. -/
def asmLevel (n : Nat) : Option Bool :=
  if n = 0 then some false else if n = 1 then some true else none

/-- PIN l, v, written for GPIO line l (R82, R78). DESIGN CHOICE: R82 gives a written PIN no range for l; the assembler takes
any l the 16 line places have, NUM_LINES being open, and running a line at or above NUM_LINES faults (log entries 17 and
10). -/
def asmPin (l v : Nat) : Assembled :=
  match asmLevel v with
  | some b => if l < 16 then .event (.pin (BitVec.ofNat 4 l) b) else .error .outOfRange
  | none => .error .outOfRange

/-- PIN_A v and PIN_B v (R78). -/
def asmPinLine (v : Nat) (mk : Bool → Instr) : Assembled :=
  match asmLevel v with
  | some b => .ofInstr (mk b)
  | none => .error .outOfRange

/-- The mnemonics without operands, aliases among them (R82, R83, R78). -/
def plainMnemonics : List (String × Instr) :=
  [("RESET", .reset), ("GET_SPR", .getSpr), ("GET_STEPS_PER_REVOLUTION", .getSpr),
   ("GET_COUNT", .getCount), ("GET_AMOUNT_OF_STEPS", .getCount),
   ("GET_TURNS", .getTurns), ("GET_RELATED_TURNS", .getTurns),
   ("GET_INVALID", .getInvalid), ("GET_STATUS", .getStatus), ("DETACH", .detach),
   ("NOTIFY_A", .notifyA), ("NOTIFY_B", .notifyB), ("SAMPLE_A", .sampleA), ("SAMPLE_B", .sampleB),
   ("DECODE_A", .decodeA), ("DECODE_B", .decodeB)]

/-- Assemble a mnemonic with its operands. CONSTRUCT without spr takes defaultSpr, without a pull mode pulldown
(R83). -/
def assemble (defaultSpr : BitVec 16) (m : String) (ops : List Operand) : Assembled :=
  if m = "CONSTRUCT" then
    match ops with
    | [.num la, .num lb] => asmConstruct la lb defaultSpr.toNat false
    | [.num la, .num lb, .num spr] => asmConstruct la lb spr false
    | [.num la, .num lb, .num spr, .word w] =>
      match asmPull w with
      | some pull => asmConstruct la lb spr pull
      | none => .error .badOperands
    | _ => .error .badOperands
  else if m = "SET_SPR" ∨ m = "SET_STEPS_PER_REVOLUTION" then
    match ops with
    | [.num n] => asmSetSpr n
    | _ => .error .badOperands
  else if m = "PIN" then
    match ops with
    | [.num l, .num v] => asmPin l v
    | _ => .error .badOperands
  else if m = "PIN_A" then
    match ops with
    | [.num v] => asmPinLine v .pinA
    | _ => .error .badOperands
  else if m = "PIN_B" then
    match ops with
    | [.num v] => asmPinLine v .pinB
    | _ => .error .badOperands
  else
    match plainMnemonics.lookup m, ops with
    | some i, [] => .ofInstr i
    | some _, _ :: _ => .error .badOperands
    | none, _ => .error .unknownMnemonic

/-- White space inside a line (log entry 17). -/
def isBlank (c : Char) : Bool := c == ' ' || c == '\t'

/-- The value of a hexadecimal digit. -/
def digitValue (c : Char) : Option Nat :=
  let n := c.toNat
  if 48 ≤ n ∧ n ≤ 57 then some (n - 48)
  else if 97 ≤ n ∧ n ≤ 102 then some (n - 87)
  else if 65 ≤ n ∧ n ≤ 70 then some (n - 55)
  else none

/-- Digits in a base, most significant first, after the value so far. -/
def parseDigits (base : Nat) : List Char → Nat → Option Nat
  | [], acc => some acc
  | c :: cs, acc =>
    match digitValue c with
    | some d => if d < base then parseDigits base cs (acc * base + d) else none
    | none => none

/-- A number, decimal or 0x hex (R82). -/
def parseNumber : List Char → Option Nat
  | '0' :: 'x' :: d :: ds => parseDigits 16 (d :: ds) 0
  | d :: ds => parseDigits 10 (d :: ds) 0
  | [] => none

/-- The pieces of a text between commas. -/
def splitAtCommas : List Char → List (List Char)
  | [] => [[]]
  | c :: cs =>
    if c = ',' then [] :: splitAtCommas cs
    else
      match splitAtCommas cs with
      | piece :: rest => (c :: piece) :: rest
      | [] => [[c]]

/-- A text without the white space at its two ends. -/
def trimBlanks (cs : List Char) : List Char :=
  ((cs.dropWhile isBlank).reverse.dropWhile isBlank).reverse

/-- An operand: a number where it reads as one, else a word. -/
def parseOperand (cs : List Char) : Operand :=
  match parseNumber cs with
  | some n => .num n
  | none => .word (String.ofList cs)

/-- The operands after the mnemonic, separated by commas (R82). -/
def parseOperands (cs : List Char) : List Operand :=
  match trimBlanks cs with
  | [] => []
  | c :: rest => (splitAtCommas (c :: rest)).map fun piece => parseOperand (trimBlanks piece)

/-- Assemble one line of text: mnemonic first, operands separated by commas, ';' starts a comment (R82). -/
def assembleLine (defaultSpr : BitVec 16) (line : List Char) : Assembled :=
  let body := trimBlanks (line.takeWhile fun c => c != ';')
  match body with
  | [] => .blank
  | c :: rest =>
    let text := c :: rest
    let mnemonic := text.takeWhile fun c => !isBlank c
    assemble defaultSpr (String.ofList mnemonic) (parseOperands (text.drop mnemonic.length))

end Sys2Proof.Machine
end

