-- ==== Sys2Proof/Safety.lean ====
section
/-! DEFINITION. The terms the statements are made in: running several instructions, the invariants, the relation a
transition must satisfy, inversion of both lines, correct rounding. None of it is used by the machine. -/

namespace Sys2Proof.Machine

/-- Run instructions one after another, each as one step, stopping at the first fault or refusal. -/
def execAll : List Instr → State → Host.Outcome State Fault Refusal
  | [], s => .next s
  | i :: is, s =>
    match exec i s with
    | .next t => execAll is t
    | .fault r => .fault r
    | .refused r => .refused r

/-- PIN_X v. -/
def pinOf (v : Bool) : Line → Instr
  | .a => .pinA v
  | .b => .pinB v

/-- SAMPLE_X. -/
def sampleOf : Line → Instr
  | .a => .sampleA
  | .b => .sampleB

/-- DECODE_X. -/
def decodeOf : Line → Instr
  | .a => .decodeA
  | .b => .decodeB

/-- The table of 30_encoding.md R73, transcribed: mnemonic, match, mask. -/
def cmdTable : List (String × BitVec 32 × BitVec 32) :=
  [("CONSTRUCT", 0x10000000#32, 0xF00E0000#32),
   ("RESET", 0x20000000#32, 0xFFFFFFFF#32),
   ("SET_SPR", 0x30000000#32, 0xFFFF0000#32),
   ("GET_SPR", 0x40000000#32, 0xFFFFFFFF#32),
   ("GET_COUNT", 0x50000000#32, 0xFFFFFFFF#32),
   ("GET_TURNS", 0x60000000#32, 0xFFFFFFFF#32),
   ("GET_INVALID", 0x70000000#32, 0xFFFFFFFF#32),
   ("GET_STATUS", 0x80000000#32, 0xFFFFFFFF#32),
   ("DETACH", 0x90000000#32, 0xFFFFFFFF#32)]

/-- The instruction is read from the word op followed by 28 zeros, any other word with that OP answers ERR_ILLEGAL in
every state, and the instruction answers ERR_STATE while detached; neither writes anything but the response. These are
the encoding and the errors of the six commands without operands that need att = 1 (42_commands.md R142, R144 to R146,
R148, R150). -/
def NeedsAttachAndZeros (op : BitVec 4) (i : Instr) : Prop :=
  decode (.cmd (op ++ 0#28)) = .ok i ∧
  (∀ (w : CmdWord) (s : State), w.extractLsb' 28 4 = op → w.extractLsb' 0 28 ≠ 0#28 →
    runEvent (.code (.cmd w)) s = .next { s with rsp := some ⟨.errIllegal, 0⟩ }) ∧
  (∀ s : State, s.enc = none → exec i s = .next { s with rsp := some ⟨.errState, 0⟩ })

/-- The stored levels and the phase agree (41_decoder.md R135). -/
def Encoder.inStep (e : Encoder) : Bool := e.phase == phaseOf e.lineA e.lineB

/-- What 10_state.md R40 says of every state. -/
def State.consistent (s : State) : Bool :=
  match s.enc with
  | none => !s.pendA && !s.pendB && !s.dreqA && !s.dreqB
  | some e =>
    decide (e.selA.toNat < Config.numLines) && decide (e.selB.toNat < Config.numLines) && e.selA != e.selB &&
    (s.dreqA || s.dreqB || e.inStep)

/-- With EDGE_LOSS = false no change is lost track of: a line with no pending notification was last sampled at its
pin's level (40_notifier.md R101, R105, R106). -/
def State.noLostEdge (s : State) : Bool :=
  match s.enc with
  | none => true
  | some e => (s.pendA || e.lineA == s.pin e.selA) && (s.pendB || e.lineB == s.pin e.selB)

/-- The relation 41_decoder.md R123 and R125 put between the fields before and after a transition. delta is the signed
difference of the old and the new phase number. -/
def TransitionOf (e e' : Encoder) : Prop :=
  let d : Int := (e.phase.toNat : Int) - (e'.phase.toNat : Int)
  e' = { e with prevPhase := e.phase, phase := phaseOf e.lineA e.lineB, lastClass := e'.lastClass,
                count := e'.count, invCount := e'.invCount } ∧
  ((d = 2 ∨ d = -2) ∧ e'.lastClass = .invalid ∧ e'.count = e.count ∧ e'.invCount = e.invCount + 1 ∨
   d = 0 ∧ e'.lastClass = .nomove ∧ e'.count = e.count ∧ e'.invCount = e.invCount ∨
   (d = 3 ∨ d = -1) ∧ e'.lastClass = .fwd ∧ e'.count = e.count + 1 ∧ e'.invCount = e.invCount ∨
   (d = -3 ∨ d = 1) ∧ e'.lastClass = .rev ∧ e'.count = e.count - 1 ∧ e'.invCount = e.invCount)

/-- The position the phase would have if nothing had been counted: phase - count - 2 · invCount modulo 4. -/
def Encoder.origin (e : Encoder) : BitVec 2 :=
  e.phase - e.count.setWidth 2 - 2#2 * e.invCount.setWidth 2

/-- The same encoder wired the other way round: the other pull mode and both lines inverted, so that phase p is
(p + 2) mod 4 (41_decoder.md R134). -/
def Encoder.inverted (e : Encoder) : Encoder :=
  { e with pull := !e.pull, lineA := !e.lineA, lineB := !e.lineB, phase := e.phase + 2#2, prevPhase := e.prevPhase + 2#2 }

/-- The same machine with every pin inverted. -/
def State.inverted (s : State) : State :=
  { s with enc := s.enc.map Encoder.inverted, pins := s.pins.map (!·) }

/-- The same step with every pin inverted and the other pull mode asked for. -/
def invertedInstr : Instr → Instr
  | .pinA v => .pinA (!v)
  | .pinB v => .pinB (!v)
  | .construct la lb p imm => .construct la lb (!p) imm
  | .reset => .reset
  | .setSpr imm => .setSpr imm
  | .getSpr => .getSpr
  | .getCount => .getCount
  | .getTurns => .getTurns
  | .getInvalid => .getInvalid
  | .getStatus => .getStatus
  | .detach => .detach
  | .notifyA => .notifyA
  | .notifyB => .notifyB
  | .sampleA => .sampleA
  | .sampleB => .sampleB
  | .decodeA => .decodeA
  | .decodeB => .decodeB

/-- f is the value with a 24-bit significand nearest to x, ties to the even significand: IEEE 754 binary32's
round-to-nearest, ties-to-even on values whose exponent is in range (93_implementation_defined.md G1). -/
def NearestEven (x f : ℚ) : Prop :=
  ∃ (m : ℕ) (k : ℤ), 2 ^ 23 ≤ m ∧ m < 2 ^ 24 ∧ f = m * (2 : ℚ) ^ k ∧
    ∀ (m' : ℕ) (k' : ℤ), m' < 2 ^ 24 →
      |x - f| ≤ |x - m' * (2 : ℚ) ^ k'| ∧
      (|x - f| = |x - m' * (2 : ℚ) ^ k'| → m' * (2 : ℚ) ^ k' = f ∨ m % 2 = 0)

/-- The value of a binary32 pattern that is a normal number: sign bit 31, exponent 30:23 biased by 127, fraction 22:0
(93_implementation_defined.md G1). -/
def binary32Value (w : BitVec 32) : ℚ :=
  (if w.getLsbD 31 then -1 else 1) * ((2 ^ 23 + (w.extractLsb' 0 23).toNat : ℕ) : ℚ) *
    (2 : ℚ) ^ (((w.extractLsb' 23 8).toNat : ℤ) - 127 - 23)

/-- The pattern is a normal number: neither zero nor subnormal, neither infinite nor a NaN. -/
def isNormal32 (w : BitVec 32) : Bool :=
  decide (1 ≤ (w.extractLsb' 23 8).toNat) && decide ((w.extractLsb' 23 8).toNat ≤ 254)

/-- One full forward cycle from both lines low, as scheduled steps (95_test_vectors.md V-SRC-7, program P1). -/
def forwardCycle : List Event :=
  [.code (.evt 0x49), .code (.evt 0x21), .code (.evt 0x31), .code (.evt 0x4A), .code (.evt 0x22), .code (.evt 0x32),
   .code (.evt 0x41), .code (.evt 0x21), .code (.evt 0x31), .code (.evt 0x42), .code (.evt 0x22), .code (.evt 0x32)]

/-- One full reverse cycle from both lines low (95_test_vectors.md V-SRC-7, program P1). -/
def reverseCycle : List Event :=
  [.code (.evt 0x4A), .code (.evt 0x22), .code (.evt 0x32), .code (.evt 0x49), .code (.evt 0x21), .code (.evt 0x31),
   .code (.evt 0x42), .code (.evt 0x22), .code (.evt 0x32), .code (.evt 0x41), .code (.evt 0x21), .code (.evt 0x31)]

end Sys2Proof.Machine
end

