-- ==== Sys2Proof/Certificates/Slice0/Obligations.lean ====
section
/-! DEFINITION. The statements for the provers. Each docstring names the rule of spec/ it formalises. -/

open Sys2Proof Sys2Proof.Machine

/-! ### Encoding -/

/-- Decoding the encoding of any instruction gives it back, every operand at every value its field admits
(30_encoding.md R71 to R75, R78). Every Instr is well-formed by its types. -/
def Obligations.DecodeEncodeReturnsInstr : Prop :=
  ∀ i : Instr, decode (encode i) = .ok i

/-- Each code has one meaning: a code that decodes is the encoding of what it decodes to (30_encoding.md R73, R74,
R78). -/
def Obligations.EncodeDecodeReturnsCode : Prop :=
  ∀ (c : Code) (i : Instr), decode c = .ok i → encode i = c

/-- 30_encoding.md R73: a word selects a row of the table exactly when w & mask = match; the rows are disjoint; a word
that matches no row decodes to no command. -/
def Obligations.CommandRowsByMaskAndMatch : Prop :=
  (∀ r ∈ cmdTable, ∀ w : CmdWord, w &&& r.2.2 = r.2.1 ↔ ∃ i, decode (.cmd w) = .ok i ∧ i.mnemonic = r.1) ∧
  (∀ r ∈ cmdTable, ∀ r' ∈ cmdTable, ∀ w : CmdWord, w &&& r.2.2 = r.2.1 → w &&& r'.2.2 = r'.2.1 → r = r') ∧
  (∀ w : CmdWord, (∀ r ∈ cmdTable, w &&& r.2.2 ≠ r.2.1) ↔ ∀ i, decode (.cmd w) ≠ .ok i)

/-- 30_encoding.md R78, the table of codes: the ten codes decode to their labels, every other 8-bit value to none. -/
def Obligations.StepLabelCodes : Prop :=
  decode (.evt 0x11) = .ok .notifyA ∧ decode (.evt 0x12) = .ok .notifyB ∧
  decode (.evt 0x21) = .ok .sampleA ∧ decode (.evt 0x22) = .ok .sampleB ∧
  decode (.evt 0x31) = .ok .decodeA ∧ decode (.evt 0x32) = .ok .decodeB ∧
  decode (.evt 0x41) = .ok (.pinA false) ∧ decode (.evt 0x49) = .ok (.pinA true) ∧
  decode (.evt 0x42) = .ok (.pinB false) ∧ decode (.evt 0x4A) = .ok (.pinB true) ∧
  ∀ c : EvtCode, c ∉ [0x11#8, 0x12#8, 0x21#8, 0x22#8, 0x31#8, 0x32#8, 0x41#8, 0x49#8, 0x42#8, 0x4A#8] →
    decode (.evt c) = .rejected .notALabel

/-- 30_encoding.md R84: the worked encodings, as lines of assembler text and as decoded words, and its illegal
examples. -/
def Obligations.WorkedEncodings : Prop :=
  assembleLine 4000 "CONSTRUCT 0, 1".toList = .event (.code (.cmd 0x10100FA0)) ∧
  decode (.cmd 0x10100FA0) = .ok (.construct 0 1 false 4000) ∧
  assembleLine 4000 "CONSTRUCT 2, 5, 100, pullup".toList = .event (.code (.cmd 0x12510064)) ∧
  decode (.cmd 0x12510064) = .ok (.construct 2 5 true 100) ∧
  assembleLine 4000 "RESET".toList = .event (.code (.cmd 0x20000000)) ∧ decode (.cmd 0x20000000) = .ok .reset ∧
  assembleLine 4000 "SET_SPR 2000".toList = .event (.code (.cmd 0x300007D0)) ∧
  decode (.cmd 0x300007D0) = .ok (.setSpr 2000) ∧
  assembleLine 4000 "SET_SPR 0".toList = .event (.code (.cmd 0x30000000)) ∧
  decode (.cmd 0x30000000) = .ok (.setSpr 0) ∧
  assembleLine 4000 "GET_SPR".toList = .event (.code (.cmd 0x40000000)) ∧ decode (.cmd 0x40000000) = .ok .getSpr ∧
  assembleLine 4000 "GET_COUNT".toList = .event (.code (.cmd 0x50000000)) ∧
  decode (.cmd 0x50000000) = .ok .getCount ∧
  assembleLine 4000 "GET_TURNS".toList = .event (.code (.cmd 0x60000000)) ∧
  decode (.cmd 0x60000000) = .ok .getTurns ∧
  assembleLine 4000 "GET_INVALID".toList = .event (.code (.cmd 0x70000000)) ∧
  decode (.cmd 0x70000000) = .ok .getInvalid ∧
  assembleLine 4000 "GET_STATUS".toList = .event (.code (.cmd 0x80000000)) ∧
  decode (.cmd 0x80000000) = .ok .getStatus ∧
  assembleLine 4000 "DETACH".toList = .event (.code (.cmd 0x90000000)) ∧ decode (.cmd 0x90000000) = .ok .detach ∧
  (∀ w ∈ [0x00000000#32, 0xF0000000#32, 0x20000001#32, 0x10020FA0#32, 0x30010FA0#32],
    (decode (.cmd w)).instr? = none)

/-- 20_memory.md R53: byte k of a command is CMD[8k+7 : 8k], byte k of DATA is DATA[8k+7 : 8k], and a decoder given a
command's four bytes reads that command. -/
def Obligations.TransportIsLittleEndian : Prop :=
  (∀ (w : CmdWord) (k : Nat), k < 4 → (cmdBytes w)[k]? = some (w.extractLsb' (8 * k) 8)) ∧
  (∀ (d : Data) (k : Nat), k < 8 → (dataBytes d)[k]? = some (d.extractLsb' (8 * k) 8)) ∧
  (∀ w : CmdWord, decodeBytes (cmdBytes w) = decode (.cmd w))

/-- 30_encoding.md R79 with the agents of 20_memory.md R57: no CMD word names an internal step, and no EVT code a
command. -/
def Obligations.HostCannotIssueInternalSteps : Prop :=
  (∀ (w : CmdWord) (i : Instr), decode (.cmd w) = .ok i → i.agent = .host) ∧
  (∀ (c : EvtCode) (i : Instr), decode (.evt c) = .ok i →
    i.agent = .env ∨ i.agent = .notifierA ∨ i.agent = .notifierB ∨ i.agent = .decoder)

/-- 30_encoding.md R83: each pseudo-instruction or alias assembles as what it expands to, and the CONSTRUCT and SET_SPR
forms to those encodings for operands in range. -/
def Obligations.AssemblerPseudoInstructions : Prop :=
  (∀ la lb spr : Nat,
    assemble Config.params.defaultSpr "CONSTRUCT" [.num la, .num lb] =
      assemble Config.params.defaultSpr "CONSTRUCT" [.num la, .num lb, .num 4000, .word "pulldown"] ∧
    assemble Config.params.defaultSpr "CONSTRUCT" [.num la, .num lb, .num spr] =
      assemble Config.params.defaultSpr "CONSTRUCT" [.num la, .num lb, .num spr, .word "pulldown"]) ∧
  (∀ la lb : Nat, la < 16 → lb < 16 →
    assemble Config.params.defaultSpr "CONSTRUCT" [.num la, .num lb] =
      .event (.code (encode (.construct (BitVec.ofNat 4 la) (BitVec.ofNat 4 lb) false 4000#16)))) ∧
  (∀ la lb spr : Nat, la < 16 → lb < 16 → spr < 65536 →
    assemble Config.params.defaultSpr "CONSTRUCT" [.num la, .num lb, .num spr] =
      .event (.code (encode (.construct (BitVec.ofNat 4 la) (BitVec.ofNat 4 lb) false (BitVec.ofNat 16 spr))))) ∧
  (∀ D : BitVec 16, assemble D "GET_AMOUNT_OF_STEPS" [] = assemble D "GET_COUNT" [] ∧
    assemble D "GET_RELATED_TURNS" [] = assemble D "GET_TURNS" [] ∧
    assemble D "GET_STEPS_PER_REVOLUTION" [] = assemble D "GET_SPR" []) ∧
  (∀ (D : BitVec 16) (n : Nat),
    assemble D "SET_STEPS_PER_REVOLUTION" [.num n] = assemble D "SET_SPR" [.num n]) ∧
  (∀ (D : BitVec 16) (n : Nat), n < 65536 →
    assemble D "SET_SPR" [.num n] = .event (.code (encode (.setSpr (BitVec.ofNat 16 n)))))

/-- 30_encoding.md R82: an operand out of its range is an assembly error, not an encoding. -/
def Obligations.AssemblerRefusesOutOfRange : Prop :=
  (∀ (D : BitVec 16) (la lb spr : Nat) (w : String), w = "pulldown" ∨ w = "pullup" →
    la > 15 ∨ lb > 15 ∨ spr > 65535 →
    assemble D "CONSTRUCT" [.num la, .num lb, .num spr, .word w] = .error .outOfRange) ∧
  (∀ (D : BitVec 16) (n : Nat), n > 65535 → assemble D "SET_SPR" [.num n] = .error .outOfRange)

/-! ### The step -/

/-- When the oldest scheduled step's code decodes to i, the step is exec of i, the event taken off the inbox; an
instruction placed by withFetchWord is run by the very next step. What the inbox is, is the model's choice (log entries
1 and 15). -/
def Obligations.StepRunsDecodedInstruction : Prop :=
  (∀ (s : State) (c : Code) (rest : List Event) (i : Instr), s.inbox = .code c :: rest → decode c = .ok i →
    step s = exec i { s with inbox := rest }) ∧
  (∀ (s : State) (nbits w : Nat) (i : Instr), decodeTableWord nbits w = some i →
    step (s.withFetchWord nbits w) = exec i s)

/-- When nothing is scheduled, a step of the notifiers or the decoder that is enabled is taken, and only when none is does
the state stay as it is: which of several is taken is the free choice of log entry 2. -/
def Obligations.IdleStepTakesAPendingStep : Prop :=
  ∀ s : State, s.inbox = [] →
    (∃ i ∈ [Instr.sampleA, Instr.sampleB, Instr.decodeA, Instr.decodeB], enabled Config.params s i = true ∧
      step s = exec i { s with draws := s.draws + 1 }) ∨
    ((∀ i ∈ [Instr.sampleA, Instr.sampleB, Instr.decodeA, Instr.decodeB], enabled Config.params s i = false) ∧
      step s = .next s)

/-- 60_exceptions.md R180: no step traps or halts (a scheduled step being one of the spec's), a command that cannot
execute returns an error status with DATA 0 and writes no state, and an internal step never fails. The model's choice, not
R180's: the last clause's `t.rsp = s.rsp` (other agents' steps leave the response as it is, log entry 5), and what the
first clause's step is when nothing is scheduled (log entry 2) or a disabled step is (log entry 3). -/
def Obligations.NoStepTrapsOrHalts : Prop :=
  (∀ s : State, (∀ ev rest, s.inbox = ev :: rest → ev.wf Config.numLines = true) → ∃ t, step s = .next t) ∧
  (∀ (i : Instr) (s : State), i.agent = .host →
    ∃ t r, exec i s = .next t ∧ t.rsp = some r ∧ (r.st ≠ .ok → r.data = 0 ∧ t = { s with rsp := some r })) ∧
  (∀ (i : Instr) (s : State), i.agent ≠ .host → ∃ t, exec i s = .next t ∧ t.rsp = s.rsp)

/-- 42_commands.md R151: a word that matches no row of R73's table answers (ERR_ILLEGAL, 0) in every state and writes
nothing else; 0x00000000 is one. -/
def Obligations.IllegalWordAnswersErrIllegal : Prop :=
  (∀ (s : State) (w : CmdWord) (rest : List Event), s.inbox = .code (.cmd w) :: rest →
    (∀ r ∈ cmdTable, w &&& r.2.2 ≠ r.2.1) →
    step s = .next { s with inbox := rest, rsp := some ⟨.errIllegal, 0⟩ }) ∧
  (∀ r ∈ cmdTable, 0x00000000#32 &&& r.2.2 ≠ r.2.1)

/-- The two inputs that are no step of the spec stop the machine by name: PIN on a line that does not exist (20_memory.md
R51; log entry 10) and an 8-bit code that is no label (30_encoding.md R78; log entry 11). The stops are the model's. -/
def Obligations.NonStepsStopByName : Prop :=
  (∀ (s : State) (l : LineIdx) (v : Bool) (rest : List Event), s.inbox = .pin l v :: rest →
    step s = pinOnLine Config.params l v { s with inbox := rest }) ∧
  (∀ (p : Params) (s : State) (l : LineIdx) (v : Bool), p.numLines ≤ l.toNat →
    pinOnLine p l v s = .fault (.noSuchLine l)) ∧
  (∀ (s : State) (c : EvtCode) (rest : List Event), s.inbox = .code (.evt c) :: rest →
    c ∉ evtLabels → step s = .refused (.notALabel c))

/-- A step whose guard does not hold is no step (00_scope.md R11); where the schedule names one, the model's choice (log
entry 3) is that nothing happens. -/
def Obligations.DisabledStepChangesNothing : Prop :=
  ∀ (i : Instr) (s : State), enabled Config.params s i = false → exec i s = .next s

/-! ### Host commands: result, frame, errors -/

/-- 42_commands.md R141, its encoding, pseudocode and errors: CONSTRUCT attaches, samples both lines, seeds; ERR_STATE when attached; ERR_ARG
when a line does not exist (whatever NUM_LINES is, the last clause) or both are the same. Nothing else changes. -/
def Obligations.ConstructAttachesAndSeeds : Prop :=
  (∀ w : CmdWord, w.extractLsb' 28 4 = 0x1#4 →
    (w.extractLsb' 17 3 = 0#3 →
      decode (.cmd w) =
        .ok (.construct (w.extractLsb' 24 4) (w.extractLsb' 20 4) (w.getLsbD 16) (w.extractLsb' 0 16))) ∧
    (w.extractLsb' 17 3 ≠ 0#3 → ∀ s : State,
      runEvent (.code (.cmd w)) s = .next { s with rsp := some ⟨.errIllegal, 0⟩ })) ∧
  ∀ (s : State) (la lb : LineIdx) (p : Bool) (imm : BitVec 16),
    (s.enc = none → la.toNat < Config.numLines → lb.toNat < Config.numLines → la ≠ lb →
      exec (.construct la lb p imm) s = .next
        { s with
          enc := some
            { selA := la, selB := lb, pull := p,
              lineA := s.pins[la.toNat]'la.isLt, lineB := s.pins[lb.toNat]'lb.isLt,
              phase := phaseOf (s.pins[la.toNat]'la.isLt) (s.pins[lb.toNat]'lb.isLt),
              prevPhase := phaseOf (s.pins[la.toNat]'la.isLt) (s.pins[lb.toNat]'lb.isLt),
              count := 0, spr := imm, invCount := 0, lastClass := .nomove },
          pendA := false, pendB := false, dreqA := false, dreqB := false, rsp := some ⟨.ok, 0⟩ }) ∧
    (s.enc ≠ none → exec (.construct la lb p imm) s = .next { s with rsp := some ⟨.errState, 0⟩ }) ∧
    (s.enc = none → Config.numLines ≤ la.toNat ∨ Config.numLines ≤ lb.toNat ∨ la = lb →
      exec (.construct la lb p imm) s = .next { s with rsp := some ⟨.errArg, 0⟩ }) ∧
    exec (.construct la lb p imm) s = .next (attach Config.params la lb p imm s) ∧
    (∀ q : Params, s.enc = none → q.numLines ≤ la.toNat ∨ q.numLines ≤ lb.toNat ∨ la = lb →
      attach q la lb p imm s = { s with rsp := some ⟨.errArg, 0⟩ })

/-- 60_exceptions.md R181 and R182 with 42_commands.md R140: an illegal word is ERR_ILLEGAL in every state; else a command other
than CONSTRUCT and GET_STATUS is ERR_STATE while detached and CONSTRUCT is ERR_STATE while attached, whatever its
lines; else CONSTRUCT with lines out of range or equal is ERR_ARG. Every error has DATA 0 and writes nothing else. The
codes of ST are those of the table. -/
def Obligations.ErrorCausesAndPriority : Prop :=
  (Status.ok.code = 0 ∧ Status.errIllegal.code = 1 ∧ Status.errState.code = 2 ∧ Status.errArg.code = 3) ∧
  ∀ (s : State) (w : CmdWord),
    ((∀ r ∈ cmdTable, w &&& r.2.2 ≠ r.2.1) →
      runEvent (.code (.cmd w)) s = .next { s with rsp := some ⟨.errIllegal, 0⟩ }) ∧
    (∀ i, decode (.cmd w) = .ok i →
      (s.att = false → (∀ la lb p imm, i ≠ .construct la lb p imm) → i ≠ .getStatus →
        runEvent (.code (.cmd w)) s = .next { s with rsp := some ⟨.errState, 0⟩ }) ∧
      (∀ la lb p imm, i = .construct la lb p imm →
        (s.att = true → runEvent (.code (.cmd w)) s = .next { s with rsp := some ⟨.errState, 0⟩ }) ∧
        (s.att = false → Config.numLines ≤ la.toNat ∨ Config.numLines ≤ lb.toNat ∨ la = lb →
          runEvent (.code (.cmd w)) s = .next { s with rsp := some ⟨.errArg, 0⟩ })))

/-- 42_commands.md R142: RESET re-seeds the phase from both pins and zeroes count, invCount and lastClass; spr, selA, selB,
pull, pendA, pendB, dreqA, dreqB are unchanged; ERR_STATE while detached, ERR_ILLEGAL when any of w[27:0] is set. -/
def Obligations.ResetReseedsAndZeroes : Prop :=
  NeedsAttachAndZeros 0x2#4 .reset ∧
  ∀ (s : State) (e : Encoder), s.enc = some e →
    exec .reset s = .next
      { s with
        enc := some
          { e with lineA := s.pins[e.selA.toNat]'e.selA.isLt, lineB := s.pins[e.selB.toNat]'e.selB.isLt,
                   phase := phaseOf (s.pins[e.selA.toNat]'e.selA.isLt) (s.pins[e.selB.toNat]'e.selB.isLt),
                   prevPhase := phaseOf (s.pins[e.selA.toNat]'e.selA.isLt) (s.pins[e.selB.toNat]'e.selB.isLt),
                   count := 0, invCount := 0, lastClass := .nomove },
        rsp := some ⟨.ok, 0⟩ }

/-- 42_commands.md R143: SET_SPR n stores n, any n, and changes nothing else; ERR_STATE while detached, ERR_ILLEGAL when any
of w[27:16] is set. -/
def Obligations.SetSprStoresAnyValue : Prop :=
  (∀ n : BitVec 16, decode (.cmd (0x3000#16 ++ n)) = .ok (.setSpr n)) ∧
  (∀ (w : CmdWord) (s : State), w.extractLsb' 28 4 = 0x3#4 → w.extractLsb' 16 12 ≠ 0#12 →
    runEvent (.code (.cmd w)) s = .next { s with rsp := some ⟨.errIllegal, 0⟩ }) ∧
  (∀ (s : State) (n : BitVec 16), s.enc = none →
    exec (.setSpr n) s = .next { s with rsp := some ⟨.errState, 0⟩ }) ∧
  (∀ (s : State) (e : Encoder) (n : BitVec 16), s.enc = some e →
    exec (.setSpr n) s = .next { s with enc := some { e with spr := n }, rsp := some ⟨.ok, 0⟩ })

/-- 42_commands.md R144: GET_SPR answers zext_64(spr) and writes no state. -/
def Obligations.GetSprAnswersSpr : Prop :=
  NeedsAttachAndZeros 0x4#4 .getSpr ∧
  ∀ (s : State) (e : Encoder), s.enc = some e →
    exec .getSpr s = .next { s with rsp := some ⟨.ok, BitVec.ofNat 64 e.spr.toNat⟩ }

/-- 42_commands.md R145: GET_COUNT answers all 64 bits of count and writes no state. -/
def Obligations.GetCountAnswersCount : Prop :=
  NeedsAttachAndZeros 0x5#4 .getCount ∧
  ∀ (s : State) (e : Encoder), s.enc = some e → exec .getCount s = .next { s with rsp := some ⟨.ok, e.count⟩ }

/-- 42_commands.md R148: GET_INVALID answers zext_64(invCount); reading does not clear the counter. -/
def Obligations.GetInvalidAnswersInvCount : Prop :=
  NeedsAttachAndZeros 0x7#4 .getInvalid ∧
  ∀ (s : State) (e : Encoder), s.enc = some e →
    exec .getInvalid s = .next { s with rsp := some ⟨.ok, BitVec.ofNat 64 e.invCount.toNat⟩ }

/-- 42_commands.md R146: GET_TURNS answers zext_64(turns32(count, spr)) and writes no state; ERR_STATE while detached,
ERR_ILLEGAL when any of w[27:0] is set; spr = 0 is no error. What turns32 is, is TurnsAreCorrectlyRounded and
TurnsByZeroStepsPerRevolution. -/
def Obligations.GetTurnsAnswersTurns : Prop :=
  NeedsAttachAndZeros 0x6#4 .getTurns ∧
  ∀ (s : State) (e : Encoder), s.enc = some e →
    exec .getTurns s =
      .next { s with rsp := some ⟨.ok, BitVec.ofNat 64 (turns32 Config.turnsNan e.count e.spr).toNat⟩ }

/-- 10_state.md R39 and 42_commands.md R149: GET_STATUS answers the STATUS word, field by field while attached and 0 while
detached, never ERR_STATE, and writes no state; ERR_ILLEGAL when any of w[27:0] is set; quiescence is STATUS[12:9] = 0. -/
def Obligations.GetStatusAnswersStatusWord : Prop :=
  decode (.cmd 0x80000000) = .ok .getStatus ∧
  (∀ (w : CmdWord) (s : State), w.extractLsb' 28 4 = 0x8#4 → w.extractLsb' 0 28 ≠ 0#28 →
    runEvent (.code (.cmd w)) s = .next { s with rsp := some ⟨.errIllegal, 0⟩ }) ∧
  (∀ s : State, s.enc = none → exec .getStatus s = .next { s with rsp := some ⟨.ok, 0⟩ }) ∧
  ∀ (s : State) (e : Encoder), s.enc = some e →
    ∃ d : Data, exec .getStatus s = .next { s with rsp := some ⟨.ok, d⟩ } ∧
      d.getLsbD 0 = true ∧ d.getLsbD 1 = e.lineA ∧ d.getLsbD 2 = e.lineB ∧
      d.extractLsb' 3 2 = e.phase ∧ d.extractLsb' 5 2 = e.prevPhase ∧
      d.extractLsb' 7 2 =
        (match e.lastClass with | .nomove => 0#2 | .fwd => 1#2 | .rev => 2#2 | .invalid => 3#2) ∧
      d.getLsbD 9 = s.pendA ∧ d.getLsbD 10 = s.pendB ∧ d.getLsbD 11 = s.dreqA ∧ d.getLsbD 12 = s.dreqB ∧
      d.getLsbD 13 = e.pull ∧ d.extractLsb' 14 2 = 0#2 ∧ d.extractLsb' 16 4 = e.selA ∧
      d.extractLsb' 20 4 = e.selB ∧ d.extractLsb' 24 40 = 0#40 ∧
      (d.extractLsb' 9 4 = 0#4 ↔ s.quiescent = true)

/-- 42_commands.md R150: DETACH clears the four flags, leaves ⊥ in every other field of the block and att = 0, and touches
nothing of the environment; ERR_STATE while detached, ERR_ILLEGAL when any of w[27:0] is set. -/
def Obligations.DetachTearsDown : Prop :=
  NeedsAttachAndZeros 0x9#4 .detach ∧
  ∀ (s : State) (e : Encoder), s.enc = some e →
    exec .detach s = .next
      { s with enc := none, pendA := false, pendB := false, dreqA := false, dreqB := false, rsp := some ⟨.ok, 0⟩ }

/-- 70_reset_and_hazards.md R203: DETACH returns the block to its power-on state, and a CONSTRUCT after it starts afresh: two
blocks that differ in anything of their attachment, under the same environment, are the same machine afterwards. -/
def Obligations.NothingSurvivesDetach : Prop :=
  (∀ (s t : State), s.enc ≠ none → exec .detach s = .next t →
    t.enc = State.reset.enc ∧ t.pendA = State.reset.pendA ∧ t.pendB = State.reset.pendB ∧
    t.dreqA = State.reset.dreqA ∧ t.dreqB = State.reset.dreqB) ∧
  (∀ (s s' : State) (la lb : LineIdx) (p : Bool) (imm : BitVec 16), s.enc ≠ none → s'.enc ≠ none →
    s.pins = s'.pins → s.inbox = s'.inbox → s.draws = s'.draws →
    execAll [.detach, .construct la lb p imm] s = execAll [.detach, .construct la lb p imm] s')

/-- 20_memory.md R56: the five reads write no state and, repeated, return the same DATA; RESET twice with unchanged pins is
idempotent. -/
def Obligations.ReadsAreIdempotent : Prop :=
  (∀ i ∈ [Instr.getSpr, Instr.getCount, Instr.getTurns, Instr.getInvalid, Instr.getStatus], ∀ s : State,
    ∃ r, exec i s = .next { s with rsp := some r } ∧
      exec i { s with rsp := some r } = .next { s with rsp := some r }) ∧
  (∀ s t : State, exec .reset s = .next t → exec .reset t = .next t)

/-- 42_commands.md R153: a command that leaves count at 0 where it was not is CONSTRUCT or RESET, and it re-seeds phase and
prevPhase from the pins in the same step. -/
def Obligations.CountIsZeroedOnlyWithReseed : Prop :=
  ∀ (i : Instr) (s t : State) (e' : Encoder), i.agent = .host → exec i s = .next t → t.enc = some e' →
    (∀ e, s.enc = some e → e.count ≠ e'.count) →
    ((∃ la lb p imm, i = .construct la lb p imm) ∨ i = .reset) ∧ e'.count = 0 ∧
    e'.phase = phaseOf (t.pin e'.selA) (t.pin e'.selB) ∧ e'.prevPhase = e'.phase

/-- 60_exceptions.md R185 and the spr = 0 arm of 42_commands.md R147: GET_TURNS with spr = 0 answers OK with +infinity,
-infinity or TURNS_NAN by the sign of count, TURNS_NAN is a quiet NaN whatever its free bits, and SET_SPR 0 is
accepted. -/
def Obligations.TurnsByZeroStepsPerRevolution : Prop :=
  (∀ (s : State) (e : Encoder), s.enc = some e → e.spr = 0 →
    exec .getTurns s = .next { s with rsp := some ⟨.ok,
      if 0 < e.count.toInt then 0x000000007F800000#64
      else if e.count.toInt < 0 then 0x00000000FF800000#64
      else BitVec.ofNat 64 Config.turnsNan.toNat⟩ }) ∧
  (Config.turnsNan.extractLsb' 23 8 = 0xFF#8 ∧ Config.turnsNan.getLsbD 22 = true) ∧
  (∀ (s : State) (e : Encoder), s.enc = some e →
    exec (.setSpr 0) s = .next { s with enc := some { e with spr := 0 }, rsp := some ⟨.ok, 0⟩ })

/-- 42_commands.md R147: with spr = 0 the infinity of the count's sign, or TURNS_NAN; else the count is rounded to binary32
(exactly up to 2^24), then the quotient is, each to nearest, ties to even; the result is +0 for count 0 and otherwise a
normal number (never subnormal, infinite or -0) of the count's sign. -/
def Obligations.TurnsAreCorrectlyRounded : Prop :=
  (∀ (nan : BitVec 32) (count : BitVec 64),
    (0 < count.toInt → turns32 nan count 0 = 0x7F800000#32) ∧
    (count.toInt < 0 → turns32 nan count 0 = 0xFF800000#32) ∧ turns32 nan 0 0 = nan) ∧
  ∀ (nan : BitVec 32) (count : BitVec 64) (spr : BitVec 16), spr ≠ 0 →
    (count = 0 → turns32 nan count spr = 0) ∧
    (count ≠ 0 →
      isNormal32 (turns32 nan count spr) = true ∧
      ∃ cf q : ℚ, NearestEven |(count.toInt : ℚ)| cf ∧ NearestEven (cf / spr.toNat) q ∧
        (|count.toInt| ≤ 2 ^ 24 → cf = |(count.toInt : ℚ)|) ∧
        binary32Value (turns32 nan count spr) = if count.toInt < 0 then -q else q)

/-! ### Environment and notifiers -/

/-- 40_notifier.md R101: PIN l, v on an existing line drives it; while attached a change of level, in either direction, sets
the pending flag of the selected line it is; nothing else changes. This hardware's EDGE_LOSS = false ignores the draw;
the last clause says what the draw does for any parameters. -/
def Obligations.PinChangeRaisesPending : Prop :=
  ∀ (s : State) (l : LineIdx) (v : Bool) (rest : List Event), s.inbox = .pin l v :: rest →
    l.toNat < Config.numLines →
    (s.enc = none → step s = .next { s with inbox := rest, pins := s.pins.set l.toNat v l.isLt }) ∧
    (∀ e, s.enc = some e →
      step s = .next
        { s with inbox := rest, pins := s.pins.set l.toNat v l.isLt,
                 pendA := s.pendA || (decide (l = e.selA) && v != s.pins[l.toNat]'l.isLt),
                 pendB := s.pendB || (decide (l = e.selB) && v != s.pins[l.toNat]'l.isLt) }) ∧
    (∀ (p : Params) (lose : Bool),
      (s.enc = none → pinChange p l v lose s = { s with pins := s.pins.set l.toNat v l.isLt }) ∧
      (∀ e, s.enc = some e →
        pinChange p l v lose s =
          { s with
            pins := s.pins.set l.toNat v l.isLt,
            pendA := s.pendA ||
              (decide (l = e.selA) && v != s.pins[l.toNat]'l.isLt && !(p.edgeLoss && lose)),
            pendB := s.pendB ||
              (decide (l = e.selB) && v != s.pins[l.toNat]'l.isLt && !(p.edgeLoss && lose)) }))

/-- 30_encoding.md R78: PIN_A v and PIN_B v are PIN selA, v and PIN selB, v while attached (40_notifier.md R101). -/
def Obligations.PinLabelsDriveSelectedLines : Prop :=
  ∀ (s : State) (e : Encoder) (v : Bool), s.enc = some e → e.selA ≠ e.selB →
    exec (.pinA v) s = .next
      { s with pins := s.pins.set e.selA.toNat v e.selA.isLt,
               pendA := s.pendA || v != s.pins[e.selA.toNat]'e.selA.isLt } ∧
    exec (.pinB v) s = .next
      { s with pins := s.pins.set e.selB.toNat v e.selB.isLt,
               pendB := s.pendB || v != s.pins[e.selB.toNat]'e.selB.isLt }

/-- 40_notifier.md R103 and R104: NOTIFY_X is enabled while attached when SPURIOUS_NOTIFY is true, as it is on this
hardware, and sets pendX and nothing else. -/
def Obligations.NotifySetsPending : Prop :=
  (∀ (p : Params) (s : State),
    enabled p s .notifyA = (s.att && p.spuriousNotify) ∧ enabled p s .notifyB = (s.att && p.spuriousNotify)) ∧
  Config.params.spuriousNotify = true ∧
  ∀ s : State, s.enc ≠ none →
    exec .notifyA s = .next { s with pendA := true } ∧ exec .notifyB s = .next { s with pendB := true }

/-- 40_notifier.md R105 and R106: SAMPLE_X is enabled while attached with pendX set; it stores the current level of its own line only, clears pendX and sets dreqX; the
phase does not change here. -/
def Obligations.SampleTakesItsOwnLine : Prop :=
  (∀ (p : Params) (s : State),
    enabled p s .sampleA = (s.att && s.pendA) ∧ enabled p s .sampleB = (s.att && s.pendB)) ∧
  ∀ (s : State) (e : Encoder), s.enc = some e →
    (s.pendA = true → exec .sampleA s = .next
      { s with enc := some { e with lineA := s.pins[e.selA.toNat]'e.selA.isLt }, pendA := false, dreqA := true }) ∧
    (s.pendB = true → exec .sampleB s = .next
      { s with enc := some { e with lineB := s.pins[e.selB.toNat]'e.selB.isLt }, pendB := false, dreqB := true })

/-- 40_notifier.md R109: while att = 0 no NOTIFY, SAMPLE or DECODE step is enabled, and a PIN on an existing line changes the
pin alone. The model's choice, not R109's: `exec i s = .next s`, choosing a step that is not enabled changes nothing (log
entry 3). -/
def Obligations.DetachedNotifierIsSilent : Prop :=
  ∀ s : State, s.att = false →
    (∀ i ∈ [Instr.notifyA, .notifyB, .sampleA, .sampleB, .decodeA, .decodeB],
      enabled Config.params s i = false ∧ exec i s = .next s) ∧
    (∀ (l : LineIdx) (v : Bool), l.toNat < Config.numLines →
      runEvent (.pin l v) s = .next { s with pins := s.pins.set l.toNat v l.isLt })

/-- 40_notifier.md R108, the three bullets for either line, from a state in which the line was last sampled at its pin's
level and the phase is in step: a pulse before SAMPLE is lost, three changes count as one, and a change between SAMPLE
and DECODE sets the flag again and is counted by the next pair. -/
def Obligations.CoalescedEdgesCountOnce : Prop :=
  ∀ (s : State) (e : Encoder) (x : Line), s.enc = some e → e.selA ≠ e.selB → e.inStep = true →
    s.pin (e.sel x) = e.level x →
    (∃ t e', execAll [pinOf (!e.level x) x, pinOf (e.level x) x, sampleOf x, decodeOf x] s = .next t ∧
      t.enc = some e' ∧ e'.level x = e.level x ∧ e'.lastClass = .nomove ∧ e'.count = e.count ∧
      e'.invCount = e.invCount) ∧
    (∃ t e', execAll [pinOf (!e.level x) x, pinOf (e.level x) x, pinOf (!e.level x) x, sampleOf x, decodeOf x] s =
        .next t ∧
      t.enc = some e' ∧ e'.level x = !e.level x ∧ (e'.count = e.count + 1 ∨ e'.count = e.count - 1) ∧
      e'.invCount = e.invCount) ∧
    (∃ t e', execAll [pinOf (!e.level x) x, sampleOf x, pinOf (e.level x) x, decodeOf x] s = .next t ∧
      t.pend x = true ∧ t.enc = some e' ∧ (e'.count = e.count + 1 ∨ e'.count = e.count - 1) ∧
      ∃ u e'', execAll [sampleOf x, decodeOf x] t = .next u ∧ u.pend x = false ∧ u.enc = some e'' ∧
        e''.level x = e.level x ∧ e''.count = e.count ∧ e''.invCount = e.invCount)

/-- 20_memory.md R59 and 60_exceptions.md R188: no order between the lines. From any state, the two samples give the same
machine in either order, and so do the two decodes. -/
def Obligations.OrderOfTheLinesDoesNotMatter : Prop :=
  ∀ s : State,
    execAll [.sampleA, .sampleB] s = execAll [.sampleB, .sampleA] s ∧
    (s.dreqA = true → s.dreqB = true →
      execAll [.decodeA, .decodeB] s = execAll [.decodeB, .decodeA] s)

/-! ### The decoder -/

/-- 41_decoder.md R120 and R121: the phase map, its closed form {b, a XOR b} and inverse, and the Gray property that
neighbours in the cycle differ in exactly one line. -/
def Obligations.PhaseMapIsGrayOrdered : Prop :=
  phaseOf false false = 0 ∧ phaseOf true false = 1 ∧ phaseOf true true = 2 ∧ phaseOf false true = 3 ∧
  (∀ a b : Bool, phaseOf a b = BitVec.ofBool b ++ BitVec.ofBool (a ^^ b)) ∧
  (∀ a b : Bool, b = (phaseOf a b).getLsbD 1 ∧ a = ((phaseOf a b).getLsbD 1 ^^ (phaseOf a b).getLsbD 0)) ∧
  (∀ a b a' b' : Bool, phaseOf a' b' = phaseOf a b + 1 → (a' ≠ a ∧ b' = b) ∨ (a' = a ∧ b' ≠ b))

/-- 41_decoder.md R123, R125, R130, R131: DECODE_X is enabled while attached with dreqX set; it clears dreqX and makes one transition: prevPhase is the old
phase, phase is that of the stored lines, and the class, count and invCount go by delta; nothing else changes. -/
def Obligations.DecodeMakesOneTransition : Prop :=
  (∀ (p : Params) (s : State),
    enabled p s .decodeA = (s.att && s.dreqA) ∧ enabled p s .decodeB = (s.att && s.dreqB)) ∧
  ∀ (s : State) (e : Encoder), s.enc = some e →
    (s.dreqA = true →
      ∃ e', exec .decodeA s = .next { s with enc := some e', dreqA := false } ∧ TransitionOf e e') ∧
    (s.dreqB = true →
      ∃ e', exec .decodeB s = .next { s with enc := some e', dreqB := false } ∧ TransitionOf e e')

/-- 41_decoder.md R127 and R128: count wraps modulo 2^64 in both directions and invCount modulo 2^32. -/
def Obligations.CountersWrap : Prop :=
  ∀ (s : State) (e : Encoder) (x : Line), s.enc = some e → s.dreq x = true →
    (e.count = 0x7FFFFFFFFFFFFFFF → phaseOf e.lineA e.lineB = e.phase + 1 →
      ∃ t e', exec (decodeOf x) s = .next t ∧ t.enc = some e' ∧ e'.count = 0x8000000000000000 ∧
        e'.count.toInt = -2 ^ 63) ∧
    (e.count = 0x8000000000000000 → phaseOf e.lineA e.lineB = e.phase - 1 →
      ∃ t e', exec (decodeOf x) s = .next t ∧ t.enc = some e' ∧ e'.count = 0x7FFFFFFFFFFFFFFF ∧
        e'.count.toInt = 2 ^ 63 - 1) ∧
    (phaseOf e.lineA e.lineB = e.phase + 2 →
      ∃ t e', exec (decodeOf x) s = .next t ∧ t.enc = some e' ∧
        e'.invCount.toNat = (e.invCount.toNat + 1) % 2 ^ 32)

/-- 41_decoder.md R135 and R136: after every DECODE the phase is that of the stored lines, and a DECODE that finds it so (no
SAMPLE since the last DECODE, CONSTRUCT or RESET) is NOMOVE and changes neither count nor invCount. -/
def Obligations.RepeatedDecodeIsNoMove : Prop :=
  ∀ (s : State) (e : Encoder) (x : Line), s.enc = some e → s.dreq x = true →
    (∃ t e', exec (decodeOf x) s = .next t ∧ t.enc = some e' ∧ e'.phase = phaseOf e.lineA e.lineB ∧
      e'.lineA = e.lineA ∧ e'.lineB = e.lineB) ∧
    (e.phase = phaseOf e.lineA e.lineB →
      exec (decodeOf x) s = .next
        { s.setDreq false x with enc := some { e with prevPhase := e.phase, lastClass := .nomove } })

/-- 41_decoder.md R132 and R133: from a phase in step with the lines, sampling a change of one line and decoding it is
exactly one step: forward when A changes to differ from B or B changes to equal A (A leads B), reverse otherwise; never
invalid. -/
def Obligations.OneLineChangeIsOneStep : Prop :=
  ∀ (s : State) (e : Encoder) (x : Line), s.enc = some e → e.inStep = true → s.pend x = true →
    s.pin (e.sel x) = !e.level x →
    ∃ t e', execAll [sampleOf x, decodeOf x] s = .next t ∧ t.enc = some e' ∧ e'.inStep = true ∧
      e'.invCount = e.invCount ∧ e'.prevPhase = e.phase ∧
      (match x, e.lineA == e.lineB with
        | .a, true => e'.lastClass = .fwd ∧ e'.phase = e.phase + 1 ∧ e'.count = e.count + 1
        | .a, false => e'.lastClass = .rev ∧ e'.phase = e.phase - 1 ∧ e'.count = e.count - 1
        | .b, true => e'.lastClass = .rev ∧ e'.phase = e.phase - 1 ∧ e'.count = e.count - 1
        | .b, false => e'.lastClass = .fwd ∧ e'.phase = e.phase + 1 ∧ e'.count = e.count + 1)

/-- 41_decoder.md R137: when both lines change and both are sampled before a decode, count stays and invCount goes up by one;
decoded one at a time the same changes count +2 or -2, by which line's is decoded first; all three end at the same
phase. -/
def Obligations.DoubleEdgeLosesTwoSteps : Prop :=
  ∀ (s : State) (e : Encoder), s.enc = some e → e.inStep = true → s.pendA = true → s.pendB = true →
    s.pin e.selA = !e.lineA → s.pin e.selB = !e.lineB →
    ∃ t u v et eu ev,
      execAll [.sampleA, .sampleB, .decodeA, .decodeB] s = .next t ∧ t.enc = some et ∧
      execAll [.sampleA, .decodeA, .sampleB, .decodeB] s = .next u ∧ u.enc = some eu ∧
      execAll [.sampleB, .decodeB, .sampleA, .decodeA] s = .next v ∧ v.enc = some ev ∧
      et.count = e.count ∧ et.invCount = e.invCount + 1 ∧
      eu.invCount = e.invCount ∧ ev.invCount = e.invCount ∧
      (eu.count = e.count + 2 ∧ ev.count = e.count - 2 ∨ eu.count = e.count - 2 ∧ ev.count = e.count + 2) ∧
      (e.phase = 0 → eu.count = e.count + 2 ∧ ev.count = e.count - 2) ∧
      et.phase = e.phase + 2 ∧ eu.phase = e.phase + 2 ∧ ev.phase = e.phase + 2

/-- 41_decoder.md R134: wired with both lines inverted and the other pull mode, every step but GET_STATUS does the same: the
same classes, the same counts, the same responses. -/
def Obligations.InvertedWiringCountsTheSame : Prop :=
  ∀ (i : Instr) (s t : State), i ≠ .getStatus → exec i s = .next t →
    exec (invertedInstr i) s.inverted = .next t.inverted

/-- 42_commands.md R142 (the source's property of reset): the first change of either line after a RESET counts exactly ±1 and
is not invalid, whatever was pending before. -/
def Obligations.FirstStepAfterResetIsOneStep : Prop :=
  ∀ (s : State) (e : Encoder) (x : Line), s.enc = some e → e.selA ≠ e.selB →
    ∃ t e', execAll [.reset, pinOf (!s.pin (e.sel x)) x, sampleOf x, decodeOf x] s = .next t ∧ t.enc = some e' ∧
      (e'.count = 1 ∧ e'.lastClass = .fwd ∨ e'.count = -1 ∧ e'.lastClass = .rev) ∧ e'.invCount = 0

/-- 20_memory.md R63: a GET_COUNT after a change of a pin and even its SAMPLE, but before its DECODE, answers the count before
the change. -/
def Obligations.CountLagsThePins : Prop :=
  ∀ (s : State) (e : Encoder) (x : Line) (v : Bool), s.enc = some e →
    ∃ t, execAll [pinOf v x, sampleOf x, .getCount] s = .next t ∧ t.rsp = some ⟨.ok, e.count⟩

/-- 95_test_vectors.md V-SRC-7 (41_decoder.md R132): from both lines low, in step and quiescent, one full forward cycle counts
+4 and one full reverse cycle -4, from any count, with no invalid transition. -/
def Obligations.FullCycleCountsFour : Prop :=
  ∀ (s : State) (e : Encoder) (rest : List Event), s.enc = some e → e.selA ≠ e.selB →
    e.lineA = false → e.lineB = false → e.phase = 0 → s.pin e.selA = false → s.pin e.selB = false →
    s.quiescent = true →
    (s.inbox = forwardCycle ++ rest →
      ∃ t e', Sys2Proof.core.run 12 s = .next t ∧ t.inbox = rest ∧ t.enc = some e' ∧ e'.count = e.count + 4 ∧
        e'.invCount = e.invCount ∧ e'.phase = 0) ∧
    (s.inbox = reverseCycle ++ rest →
      ∃ t e', Sys2Proof.core.run 12 s = .next t ∧ t.inbox = rest ∧ t.enc = some e' ∧ e'.count = e.count - 4 ∧
        e'.invCount = e.invCount ∧ e'.phase = 0)

/-! ### Whole-machine rules -/

/-- 10_state.md R34, the table of writers, as a frame over every instruction: who can change each field of the block and the
pins. The model's choice, not R34's, whose table lists none of them: only a host command changes the response (log entry
5), no instruction changes the schedule (log entry 1) or the draw counter (log entry 16). -/
def Obligations.OnlyTheListedStepsWriteAField : Prop :=
  ∀ (i : Instr) (s t : State), exec i s = .next t →
    (t.att ≠ s.att → (∃ la lb p imm, i = .construct la lb p imm) ∨ i = .detach) ∧
    (t.pendA ≠ s.pendA → i = .notifyA ∨ i = .sampleA ∨ i.agent = .env ∨ i = .detach ∨
      ∃ la lb p imm, i = .construct la lb p imm) ∧
    (t.pendB ≠ s.pendB → i = .notifyB ∨ i = .sampleB ∨ i.agent = .env ∨ i = .detach ∨
      ∃ la lb p imm, i = .construct la lb p imm) ∧
    (t.dreqA ≠ s.dreqA → i = .sampleA ∨ i = .decodeA ∨ i = .detach ∨ ∃ la lb p imm, i = .construct la lb p imm) ∧
    (t.dreqB ≠ s.dreqB → i = .sampleB ∨ i = .decodeB ∨ i = .detach ∨ ∃ la lb p imm, i = .construct la lb p imm) ∧
    (t.pins ≠ s.pins → i.agent = .env) ∧
    (t.rsp ≠ s.rsp → i.agent = .host) ∧
    t.inbox = s.inbox ∧ t.draws = s.draws ∧
    ∀ e e', s.enc = some e → t.enc = some e' →
      e'.selA = e.selA ∧ e'.selB = e.selB ∧ e'.pull = e.pull ∧
      (e'.spr ≠ e.spr → ∃ n, i = .setSpr n) ∧
      (e'.lineA ≠ e.lineA → i = .sampleA ∨ i = .reset) ∧
      (e'.lineB ≠ e.lineB → i = .sampleB ∨ i = .reset) ∧
      (i ≠ .decodeA → i ≠ .decodeB → i ≠ .reset →
        e'.phase = e.phase ∧ e'.prevPhase = e.prevPhase ∧ e'.count = e.count ∧ e'.invCount = e.invCount ∧
        e'.lastClass = e.lastClass)

/-- 10_state.md R27: while attached, count changes only by +1 on a forward transition and by -1 on a reverse one, and is set to
0 only by RESET (and by CONSTRUCT, which attaches). -/
def Obligations.CountMovesInUnitSteps : Prop :=
  ∀ (i : Instr) (s t : State) (e' : Encoder), exec i s = .next t → t.enc = some e' →
    (∀ e, s.enc = some e → e'.count ≠ e.count →
      (i = .reset ∧ e'.count = 0) ∨
      ((i = .decodeA ∨ i = .decodeB) ∧
        (e'.lastClass = .fwd ∧ e'.count = e.count + 1 ∨ e'.lastClass = .rev ∧ e'.count = e.count - 1))) ∧
    (s.enc = none → (∃ la lb p imm, i = .construct la lb p imm) ∧ e'.count = 0)

/-- 70_reset_and_hazards.md R200, the power-on column, for the block: detached, every field ⊥, every flag 0; and the two
invariants below hold there. (What the inbox, the response port and the draw counter hold at power-on is the model's
choice, log entries 5, 15, 16, and is not stated.) -/
def Obligations.PowerOnIsDetachedAndConsistent : Prop :=
  State.reset.att = false ∧ State.reset.enc = none ∧
  State.reset.pendA = false ∧ State.reset.pendB = false ∧ State.reset.dreqA = false ∧ State.reset.dreqB = false ∧
  State.reset.consistent = true ∧ State.reset.noLostEdge = true

/-- 10_state.md R40: every step keeps it: the selected lines exist and differ, the phase is that of the stored lines whenever no
decode waits, and while detached every flag is 0. -/
def Obligations.StepKeepsConsistent : Prop :=
  ∀ s t : State, s.consistent = true → step s = .next t → t.consistent = true

/-- Every step keeps this: a line with no pending notification was last sampled at its pin's current level, so no change is
lost track of (40_notifier.md R101 with EDGE_LOSS = false, R105, R106, 42_commands.md R141, R142). -/
def Obligations.StepKeepsNoLostEdge : Prop :=
  ∀ s t : State, s.noLostEdge = true → step s = .next t → t.noLostEdge = true

/-- Position is conserved modulo 4: over any step except a RESET, while attached before and after, phase - count -
2 · invCount modulo 4 stays what it was (41_decoder.md R125, R134). -/
def Obligations.StepKeepsOriginModFour : Prop :=
  ∀ (s t : State) (e e' : Encoder), s.enc = some e → step s = .next t → t.enc = some e' →
    (∀ c rest, s.inbox = .code c :: rest → decode c ≠ .ok .reset) → e'.origin = e.origin

/-- 70_reset_and_hazards.md R207 with 20_memory.md R68: with nothing scheduled, six steps reach quiescence, whatever order the
free choices take; the pins stay, and while attached the stored levels and the phase are then those of the pins. The
model's choice: that an idle machine drains (its form of R68, log entry 2), and that the response stays meanwhile,
`t.rsp = s.rsp` (log entry 5). -/
def Obligations.QuiescenceWithinSixSteps : Prop :=
  ∀ s : State, s.consistent = true → s.noLostEdge = true → s.inbox = [] →
    ∃ t, Sys2Proof.core.run 6 s = .next t ∧ t.quiescent = true ∧ t.pins = s.pins ∧ t.rsp = s.rsp ∧
      t.att = s.att ∧
      ∀ e, t.enc = some e →
        e.lineA = t.pin e.selA ∧ e.lineB = t.pin e.selB ∧ e.phase = phaseOf (t.pin e.selA) (t.pin e.selB)
end

