-- ==== Sys2Proof/Laws/Encoding.lean ====
section
/-! SUPPORT. The fields of an assembled CMD word, and what a decoded CMD word must look like. -/

namespace Sys2Proof

/-- Every bit of a CMD word, by its field (30_encoding.md R71). -/
theorem cmdWord_getLsbD (op : BitVec 4) (la lb : LineIdx) (p : Bool) (imm : BitVec 16) (i : Nat) :
    (cmdWord op la lb p imm).getLsbD i =
      if i < 16 then imm.getLsbD i
      else if i < 17 then p
      else if i < 20 then false
      else if i < 24 then lb.getLsbD (i - 20)
      else if i < 28 then la.getLsbD (i - 24)
      else op.getLsbD (i - 28) := by
  unfold cmdWord
  rw [BitVec.getLsbD_cast, BitVec.getLsbD_append, BitVec.getLsbD_append, BitVec.getLsbD_append,
    BitVec.getLsbD_append, BitVec.getLsbD_append]
  simp only [BitVec.getLsbD_zero, BitVec.getLsbD_ofBool]
  split_ifs with h1 h2 h3 h4 h5 <;> first
    | rfl
    | omega
    | (have : i = 16 := by omega
       subst this; simp)

theorem cmdWord_op (op : BitVec 4) (la lb : LineIdx) (p : Bool) (imm : BitVec 16) :
    (cmdWord op la lb p imm).extractLsb' 28 4 = op := by
  apply BitVec.eq_of_getLsbD_eq
  intro i hi
  have h : ¬ 28 + i < 16 ∧ ¬ 28 + i < 17 ∧ ¬ 28 + i < 20 ∧ ¬ 28 + i < 24 ∧ ¬ 28 + i < 28 ∧ 28 + i - 28 = i := by
    omega
  rw [BitVec.getLsbD_extractLsb', cmdWord_getLsbD]
  simp only [h, hi, if_false, decide_true, Bool.true_and]

theorem cmdWord_la (op : BitVec 4) (la lb : LineIdx) (p : Bool) (imm : BitVec 16) :
    (cmdWord op la lb p imm).extractLsb' 24 4 = la := by
  apply BitVec.eq_of_getLsbD_eq
  intro i hi
  have h : ¬ 24 + i < 16 ∧ ¬ 24 + i < 17 ∧ ¬ 24 + i < 20 ∧ ¬ 24 + i < 24 ∧ 24 + i < 28 ∧ 24 + i - 24 = i := by
    omega
  rw [BitVec.getLsbD_extractLsb', cmdWord_getLsbD]
  simp only [h, hi, if_false, if_true, decide_true, Bool.true_and]

theorem cmdWord_lb (op : BitVec 4) (la lb : LineIdx) (p : Bool) (imm : BitVec 16) :
    (cmdWord op la lb p imm).extractLsb' 20 4 = lb := by
  apply BitVec.eq_of_getLsbD_eq
  intro i hi
  have h : ¬ 20 + i < 16 ∧ ¬ 20 + i < 17 ∧ ¬ 20 + i < 20 ∧ 20 + i < 24 ∧ 20 + i - 20 = i := by
    omega
  rw [BitVec.getLsbD_extractLsb', cmdWord_getLsbD]
  simp only [h, hi, if_false, if_true, decide_true, Bool.true_and]

theorem cmdWord_p (op : BitVec 4) (la lb : LineIdx) (p : Bool) (imm : BitVec 16) :
    (cmdWord op la lb p imm).getLsbD 16 = p := by
  rw [cmdWord_getLsbD]; simp

theorem cmdWord_imm (op : BitVec 4) (la lb : LineIdx) (p : Bool) (imm : BitVec 16) :
    (cmdWord op la lb p imm).extractLsb' 0 16 = imm := by
  apply BitVec.eq_of_getLsbD_eq
  intro i hi
  rw [BitVec.getLsbD_extractLsb', cmdWord_getLsbD]
  simp only [Nat.zero_add, hi, if_true, decide_true, Bool.true_and]

theorem cmdWord_rsv (op : BitVec 4) (la lb : LineIdx) (p : Bool) (imm : BitVec 16) :
    (cmdWord op la lb p imm).extractLsb' 17 3 = 0#3 := by
  apply BitVec.eq_of_getLsbD_eq
  intro i hi
  have h : ¬ 17 + i < 16 ∧ ¬ 17 + i < 17 ∧ 17 + i < 20 := by omega
  rw [BitVec.getLsbD_extractLsb', cmdWord_getLsbD]
  simp only [h, if_false, if_true, Bool.and_false, BitVec.getLsbD_zero]

/-- What decodeCmd answers, case by case (30_encoding.md R74): a command has its OP and zeros outside its fields. -/
theorem decodeCmd_ok {w : CmdWord} {i : Instr} (h : decodeCmd w = .ok i) :
    (w.extractLsb' 28 4 = 1#4 ∧ w.extractLsb' 17 3 = 0#3 ∧
      i = .construct (w.extractLsb' 24 4) (w.extractLsb' 20 4) (w.getLsbD 16) (w.extractLsb' 0 16)) ∨
    (w.extractLsb' 28 4 = 3#4 ∧ w.extractLsb' 16 12 = 0#12 ∧ i = .setSpr (w.extractLsb' 0 16)) ∨
    (w.extractLsb' 0 28 = 0#28 ∧
      (w.extractLsb' 28 4, i) ∈
        [(2#4, Instr.reset), (4#4, .getSpr), (5#4, .getCount), (6#4, .getTurns), (7#4, .getInvalid),
         (8#4, .getStatus), (9#4, .detach)]) := by
  unfold decodeCmd at h
  simp only at h
  split at h
  · rename_i hc; cases h; exact .inl ⟨hc.1, hc.2, rfl⟩
  split at h
  · rename_i hc; cases h; exact .inr (.inl ⟨hc.1, hc.2, rfl⟩)
  iterate 7
    split at h
    · rename_i hc; cases h; exact .inr (.inr ⟨hc.2, by simp [hc.1]⟩)
  split at h <;> cases h

end Sys2Proof
end

