-- ==== Sys2Proof/Laws/State.lean ====
section
/-! SUPPORT. One lemma per field per named update, so that no later proof unfolds an update. -/

namespace Sys2Proof.Machine


/-! ### respond and raise -/

@[simp] theorem State.respond_enc (s : State) (d : Data) : (s.respond d).enc = s.enc := rfl
@[simp] theorem State.respond_pendA (s : State) (d : Data) : (s.respond d).pendA = s.pendA := rfl
@[simp] theorem State.respond_pendB (s : State) (d : Data) : (s.respond d).pendB = s.pendB := rfl
@[simp] theorem State.respond_dreqA (s : State) (d : Data) : (s.respond d).dreqA = s.dreqA := rfl
@[simp] theorem State.respond_dreqB (s : State) (d : Data) : (s.respond d).dreqB = s.dreqB := rfl
@[simp] theorem State.respond_pins (s : State) (d : Data) : (s.respond d).pins = s.pins := rfl
@[simp] theorem State.respond_inbox (s : State) (d : Data) : (s.respond d).inbox = s.inbox := rfl
@[simp] theorem State.respond_rsp (s : State) (d : Data) : (s.respond d).rsp = some ⟨.ok, d⟩ := rfl
@[simp] theorem State.respond_draws (s : State) (d : Data) : (s.respond d).draws = s.draws := rfl
@[simp] theorem State.raise_enc (s : State) (st : Status) : (s.raise st).enc = s.enc := rfl
@[simp] theorem State.raise_pendA (s : State) (st : Status) : (s.raise st).pendA = s.pendA := rfl
@[simp] theorem State.raise_pendB (s : State) (st : Status) : (s.raise st).pendB = s.pendB := rfl
@[simp] theorem State.raise_dreqA (s : State) (st : Status) : (s.raise st).dreqA = s.dreqA := rfl
@[simp] theorem State.raise_dreqB (s : State) (st : Status) : (s.raise st).dreqB = s.dreqB := rfl
@[simp] theorem State.raise_pins (s : State) (st : Status) : (s.raise st).pins = s.pins := rfl
@[simp] theorem State.raise_inbox (s : State) (st : Status) : (s.raise st).inbox = s.inbox := rfl
@[simp] theorem State.raise_rsp (s : State) (st : Status) : (s.raise st).rsp = some ⟨st, 0⟩ := rfl
@[simp] theorem State.raise_draws (s : State) (st : Status) : (s.raise st).draws = s.draws := rfl

/-! ### drive -/

@[simp] theorem State.drive_enc (s : State) (l : LineIdx) (v : Bool) : (s.drive l v).enc = s.enc := rfl
@[simp] theorem State.drive_pendA (s : State) (l : LineIdx) (v : Bool) : (s.drive l v).pendA = s.pendA := rfl
@[simp] theorem State.drive_pendB (s : State) (l : LineIdx) (v : Bool) : (s.drive l v).pendB = s.pendB := rfl
@[simp] theorem State.drive_dreqA (s : State) (l : LineIdx) (v : Bool) : (s.drive l v).dreqA = s.dreqA := rfl
@[simp] theorem State.drive_dreqB (s : State) (l : LineIdx) (v : Bool) : (s.drive l v).dreqB = s.dreqB := rfl
@[simp] theorem State.drive_pins (s : State) (l : LineIdx) (v : Bool) : (s.drive l v).pins = s.pins.set l.toNat v l.isLt :=
  rfl
@[simp] theorem State.drive_inbox (s : State) (l : LineIdx) (v : Bool) : (s.drive l v).inbox = s.inbox := rfl
@[simp] theorem State.drive_rsp (s : State) (l : LineIdx) (v : Bool) : (s.drive l v).rsp = s.rsp := rfl
@[simp] theorem State.drive_draws (s : State) (l : LineIdx) (v : Bool) : (s.drive l v).draws = s.draws := rfl

/-! ### setPend and setDreq -/

@[simp] theorem State.setPend_a_enc (s : State) (v : Bool) : (s.setPend v .a).enc = s.enc := rfl
@[simp] theorem State.setPend_a_pendA (s : State) (v : Bool) : (s.setPend v .a).pendA = v := rfl
@[simp] theorem State.setPend_a_pendB (s : State) (v : Bool) : (s.setPend v .a).pendB = s.pendB := rfl
@[simp] theorem State.setPend_a_dreqA (s : State) (v : Bool) : (s.setPend v .a).dreqA = s.dreqA := rfl
@[simp] theorem State.setPend_a_dreqB (s : State) (v : Bool) : (s.setPend v .a).dreqB = s.dreqB := rfl
@[simp] theorem State.setPend_a_pins (s : State) (v : Bool) : (s.setPend v .a).pins = s.pins := rfl
@[simp] theorem State.setPend_a_inbox (s : State) (v : Bool) : (s.setPend v .a).inbox = s.inbox := rfl
@[simp] theorem State.setPend_a_rsp (s : State) (v : Bool) : (s.setPend v .a).rsp = s.rsp := rfl
@[simp] theorem State.setPend_a_draws (s : State) (v : Bool) : (s.setPend v .a).draws = s.draws := rfl
@[simp] theorem State.setPend_b_enc (s : State) (v : Bool) : (s.setPend v .b).enc = s.enc := rfl
@[simp] theorem State.setPend_b_pendA (s : State) (v : Bool) : (s.setPend v .b).pendA = s.pendA := rfl
@[simp] theorem State.setPend_b_pendB (s : State) (v : Bool) : (s.setPend v .b).pendB = v := rfl
@[simp] theorem State.setPend_b_dreqA (s : State) (v : Bool) : (s.setPend v .b).dreqA = s.dreqA := rfl
@[simp] theorem State.setPend_b_dreqB (s : State) (v : Bool) : (s.setPend v .b).dreqB = s.dreqB := rfl
@[simp] theorem State.setPend_b_pins (s : State) (v : Bool) : (s.setPend v .b).pins = s.pins := rfl
@[simp] theorem State.setPend_b_inbox (s : State) (v : Bool) : (s.setPend v .b).inbox = s.inbox := rfl
@[simp] theorem State.setPend_b_rsp (s : State) (v : Bool) : (s.setPend v .b).rsp = s.rsp := rfl
@[simp] theorem State.setPend_b_draws (s : State) (v : Bool) : (s.setPend v .b).draws = s.draws := rfl
@[simp] theorem State.setDreq_a_enc (s : State) (v : Bool) : (s.setDreq v .a).enc = s.enc := rfl
@[simp] theorem State.setDreq_a_pendA (s : State) (v : Bool) : (s.setDreq v .a).pendA = s.pendA := rfl
@[simp] theorem State.setDreq_a_pendB (s : State) (v : Bool) : (s.setDreq v .a).pendB = s.pendB := rfl
@[simp] theorem State.setDreq_a_dreqA (s : State) (v : Bool) : (s.setDreq v .a).dreqA = v := rfl
@[simp] theorem State.setDreq_a_dreqB (s : State) (v : Bool) : (s.setDreq v .a).dreqB = s.dreqB := rfl
@[simp] theorem State.setDreq_a_pins (s : State) (v : Bool) : (s.setDreq v .a).pins = s.pins := rfl
@[simp] theorem State.setDreq_a_inbox (s : State) (v : Bool) : (s.setDreq v .a).inbox = s.inbox := rfl
@[simp] theorem State.setDreq_a_rsp (s : State) (v : Bool) : (s.setDreq v .a).rsp = s.rsp := rfl
@[simp] theorem State.setDreq_a_draws (s : State) (v : Bool) : (s.setDreq v .a).draws = s.draws := rfl
@[simp] theorem State.setDreq_b_enc (s : State) (v : Bool) : (s.setDreq v .b).enc = s.enc := rfl
@[simp] theorem State.setDreq_b_pendA (s : State) (v : Bool) : (s.setDreq v .b).pendA = s.pendA := rfl
@[simp] theorem State.setDreq_b_pendB (s : State) (v : Bool) : (s.setDreq v .b).pendB = s.pendB := rfl
@[simp] theorem State.setDreq_b_dreqA (s : State) (v : Bool) : (s.setDreq v .b).dreqA = s.dreqA := rfl
@[simp] theorem State.setDreq_b_dreqB (s : State) (v : Bool) : (s.setDreq v .b).dreqB = v := rfl
@[simp] theorem State.setDreq_b_pins (s : State) (v : Bool) : (s.setDreq v .b).pins = s.pins := rfl
@[simp] theorem State.setDreq_b_inbox (s : State) (v : Bool) : (s.setDreq v .b).inbox = s.inbox := rfl
@[simp] theorem State.setDreq_b_rsp (s : State) (v : Bool) : (s.setDreq v .b).rsp = s.rsp := rfl
@[simp] theorem State.setDreq_b_draws (s : State) (v : Bool) : (s.setDreq v .b).draws = s.draws := rfl

/-! ### setLevel -/

@[simp] theorem Encoder.setLevel_a_selA (e : Encoder) (v : Bool) : (e.setLevel v .a).selA = e.selA := rfl
@[simp] theorem Encoder.setLevel_a_selB (e : Encoder) (v : Bool) : (e.setLevel v .a).selB = e.selB := rfl
@[simp] theorem Encoder.setLevel_a_pull (e : Encoder) (v : Bool) : (e.setLevel v .a).pull = e.pull := rfl
@[simp] theorem Encoder.setLevel_a_lineA (e : Encoder) (v : Bool) : (e.setLevel v .a).lineA = v := rfl
@[simp] theorem Encoder.setLevel_a_lineB (e : Encoder) (v : Bool) : (e.setLevel v .a).lineB = e.lineB := rfl
@[simp] theorem Encoder.setLevel_a_phase (e : Encoder) (v : Bool) : (e.setLevel v .a).phase = e.phase := rfl
@[simp] theorem Encoder.setLevel_a_prevPhase (e : Encoder) (v : Bool) : (e.setLevel v .a).prevPhase = e.prevPhase :=
  rfl
@[simp] theorem Encoder.setLevel_a_count (e : Encoder) (v : Bool) : (e.setLevel v .a).count = e.count := rfl
@[simp] theorem Encoder.setLevel_a_spr (e : Encoder) (v : Bool) : (e.setLevel v .a).spr = e.spr := rfl
@[simp] theorem Encoder.setLevel_a_invCount (e : Encoder) (v : Bool) : (e.setLevel v .a).invCount = e.invCount := rfl
@[simp] theorem Encoder.setLevel_a_lastClass (e : Encoder) (v : Bool) : (e.setLevel v .a).lastClass = e.lastClass :=
  rfl
@[simp] theorem Encoder.setLevel_b_selA (e : Encoder) (v : Bool) : (e.setLevel v .b).selA = e.selA := rfl
@[simp] theorem Encoder.setLevel_b_selB (e : Encoder) (v : Bool) : (e.setLevel v .b).selB = e.selB := rfl
@[simp] theorem Encoder.setLevel_b_pull (e : Encoder) (v : Bool) : (e.setLevel v .b).pull = e.pull := rfl
@[simp] theorem Encoder.setLevel_b_lineA (e : Encoder) (v : Bool) : (e.setLevel v .b).lineA = e.lineA := rfl
@[simp] theorem Encoder.setLevel_b_lineB (e : Encoder) (v : Bool) : (e.setLevel v .b).lineB = v := rfl
@[simp] theorem Encoder.setLevel_b_phase (e : Encoder) (v : Bool) : (e.setLevel v .b).phase = e.phase := rfl
@[simp] theorem Encoder.setLevel_b_prevPhase (e : Encoder) (v : Bool) : (e.setLevel v .b).prevPhase = e.prevPhase :=
  rfl
@[simp] theorem Encoder.setLevel_b_count (e : Encoder) (v : Bool) : (e.setLevel v .b).count = e.count := rfl
@[simp] theorem Encoder.setLevel_b_spr (e : Encoder) (v : Bool) : (e.setLevel v .b).spr = e.spr := rfl
@[simp] theorem Encoder.setLevel_b_invCount (e : Encoder) (v : Bool) : (e.setLevel v .b).invCount = e.invCount := rfl
@[simp] theorem Encoder.setLevel_b_lastClass (e : Encoder) (v : Bool) : (e.setLevel v .b).lastClass = e.lastClass :=
  rfl

/-! ### seed -/

@[simp] theorem Encoder.seed_selA (e : Encoder) (a b : Bool) : (e.seed a b).selA = e.selA := rfl
@[simp] theorem Encoder.seed_selB (e : Encoder) (a b : Bool) : (e.seed a b).selB = e.selB := rfl
@[simp] theorem Encoder.seed_pull (e : Encoder) (a b : Bool) : (e.seed a b).pull = e.pull := rfl
@[simp] theorem Encoder.seed_lineA (e : Encoder) (a b : Bool) : (e.seed a b).lineA = a := rfl
@[simp] theorem Encoder.seed_lineB (e : Encoder) (a b : Bool) : (e.seed a b).lineB = b := rfl
@[simp] theorem Encoder.seed_phase (e : Encoder) (a b : Bool) : (e.seed a b).phase = phaseOf a b := rfl
@[simp] theorem Encoder.seed_prevPhase (e : Encoder) (a b : Bool) : (e.seed a b).prevPhase = phaseOf a b := rfl
@[simp] theorem Encoder.seed_count (e : Encoder) (a b : Bool) : (e.seed a b).count = 0 := rfl
@[simp] theorem Encoder.seed_spr (e : Encoder) (a b : Bool) : (e.seed a b).spr = e.spr := rfl
@[simp] theorem Encoder.seed_invCount (e : Encoder) (a b : Bool) : (e.seed a b).invCount = 0 := rfl
@[simp] theorem Encoder.seed_lastClass (e : Encoder) (a b : Bool) : (e.seed a b).lastClass = .nomove := rfl

/-! ### transition -/

@[simp] theorem transition_selA (e : Encoder) : (transition e).selA = e.selA := rfl
@[simp] theorem transition_selB (e : Encoder) : (transition e).selB = e.selB := rfl
@[simp] theorem transition_pull (e : Encoder) : (transition e).pull = e.pull := rfl
@[simp] theorem transition_lineA (e : Encoder) : (transition e).lineA = e.lineA := rfl
@[simp] theorem transition_lineB (e : Encoder) : (transition e).lineB = e.lineB := rfl
@[simp] theorem transition_spr (e : Encoder) : (transition e).spr = e.spr := rfl
@[simp] theorem transition_phase (e : Encoder) : (transition e).phase = phaseOf e.lineA e.lineB := rfl
@[simp] theorem transition_prevPhase (e : Encoder) : (transition e).prevPhase = e.phase := rfl
@[simp] theorem transition_lastClass (e : Encoder) :
    (transition e).lastClass = classify (delta e.phase (phaseOf e.lineA e.lineB)) := rfl
@[simp] theorem transition_count (e : Encoder) :
    (transition e).count = countAfter (classify (delta e.phase (phaseOf e.lineA e.lineB))) e.count := rfl
@[simp] theorem transition_invCount (e : Encoder) :
    (transition e).invCount = invCountAfter (classify (delta e.phase (phaseOf e.lineA e.lineB))) e.invCount := rfl

/-! ### reset -/

@[simp] theorem State.reset_enc : State.reset.enc = none := rfl
@[simp] theorem State.reset_pendA : State.reset.pendA = false := rfl
@[simp] theorem State.reset_pendB : State.reset.pendB = false := rfl
@[simp] theorem State.reset_dreqA : State.reset.dreqA = false := rfl
@[simp] theorem State.reset_dreqB : State.reset.dreqB = false := rfl
@[simp] theorem State.reset_inbox : State.reset.inbox = [] := rfl
@[simp] theorem State.reset_rsp : State.reset.rsp = none := rfl
@[simp] theorem State.reset_draws : State.reset.draws = 0 := rfl

/-! ### The lines' accessors -/

@[simp] theorem Encoder.sel_a (e : Encoder) : e.sel .a = e.selA := rfl
@[simp] theorem Encoder.level_a (e : Encoder) : e.level .a = e.lineA := rfl
@[simp] theorem State.pend_a (s : State) : s.pend .a = s.pendA := rfl
@[simp] theorem State.dreq_a (s : State) : s.dreq .a = s.dreqA := rfl
@[simp] theorem Encoder.sel_b (e : Encoder) : e.sel .b = e.selB := rfl
@[simp] theorem Encoder.level_b (e : Encoder) : e.level .b = e.lineB := rfl
@[simp] theorem State.pend_b (s : State) : s.pend .b = s.pendB := rfl
@[simp] theorem State.dreq_b (s : State) : s.dreq .b = s.dreqB := rfl

end Sys2Proof.Machine
end

