-- ==== Sys2Proof/Laws/Ops.lean ====
section
/-! SUPPORT. What each shared operation can do, said once. -/

namespace Sys2Proof.Machine

/-! ### Pins -/

/-- A driven line reads as driven. -/
@[simp] theorem State.pin_drive_self (s : State) (l : LineIdx) (v : Bool) : (s.drive l v).pin l = v := by
  simp [State.pin, State.drive]

/-- Driving a line leaves every other line alone. -/
theorem State.pin_drive_ne (s : State) {l m : LineIdx} (v : Bool) (h : l ≠ m) : (s.drive l v).pin m = s.pin m := by
  have h' : l.toNat ≠ m.toNat := fun hc => h (BitVec.eq_of_toNat_eq hc)
  simp [State.pin, State.drive, h']

/-- Only the pins decide what pin(l) reads. -/
theorem State.pin_congr {s t : State} (h : t.pins = s.pins) (l : LineIdx) : t.pin l = s.pin l := by
  simp [State.pin, h]

/-! ### The flags and the levels of a line -/

@[simp] theorem State.pend_setPend (s : State) (v : Bool) (x : Line) : (s.setPend v x).pend x = v := by cases x <;> rfl
@[simp] theorem State.dreq_setPend (s : State) (v : Bool) (x y : Line) : (s.setPend v x).dreq y = s.dreq y := by
  cases x <;> cases y <;> rfl
@[simp] theorem State.dreq_setDreq (s : State) (v : Bool) (x : Line) : (s.setDreq v x).dreq x = v := by cases x <;> rfl
@[simp] theorem State.pend_setDreq (s : State) (v : Bool) (x y : Line) : (s.setDreq v x).pend y = s.pend y := by
  cases x <;> cases y <;> rfl
@[simp] theorem State.pend_drive (s : State) (l : LineIdx) (v : Bool) (x : Line) : (s.drive l v).pend x = s.pend x := by
  cases x <;> rfl
@[simp] theorem State.dreq_drive (s : State) (l : LineIdx) (v : Bool) (x : Line) : (s.drive l v).dreq x = s.dreq x := by
  cases x <;> rfl
@[simp] theorem State.setPend_enc (s : State) (v : Bool) (x : Line) : (s.setPend v x).enc = s.enc := by cases x <;> rfl
@[simp] theorem State.setDreq_enc (s : State) (v : Bool) (x : Line) : (s.setDreq v x).enc = s.enc := by cases x <;> rfl
@[simp] theorem State.setPend_pin (s : State) (v : Bool) (x : Line) (l : LineIdx) : (s.setPend v x).pin l = s.pin l := by
  cases x <;> rfl
@[simp] theorem State.setDreq_pin (s : State) (v : Bool) (x : Line) (l : LineIdx) : (s.setDreq v x).pin l = s.pin l := by
  cases x <;> rfl
@[simp] theorem Encoder.level_setLevel (e : Encoder) (v : Bool) (x : Line) : (e.setLevel v x).level x = v := by
  cases x <;> rfl
@[simp] theorem Encoder.sel_setLevel (e : Encoder) (v : Bool) (x y : Line) : (e.setLevel v x).sel y = e.sel y := by
  cases x <;> cases y <;> rfl

/-! ### Classes and counters -/

/-- The class of a transition depends on the phases' difference modulo 4 only. -/
theorem classify_delta_add (p k : Phase) : classify (delta p (p + k)) =
    (if k = 0 then .nomove else if k = 1 then .fwd else if k = 2 then .invalid else .rev) := by
  revert p k; decide

/-- A forward step adds 1 modulo 2^64. -/
@[simp] theorem countAfter_fwd (c : BitVec 64) : countAfter .fwd c = c + 1 := by
  simp [countAfter, bits64, toSigned64, BitVec.ofInt_add]

/-- A reverse step subtracts 1 modulo 2^64. -/
@[simp] theorem countAfter_rev (c : BitVec 64) : countAfter .rev c = c - 1 := by
  simp only [countAfter, bits64, toSigned64]
  apply BitVec.eq_of_toInt_eq
  simp [BitVec.toInt_ofInt, BitVec.toInt_sub]

@[simp] theorem countAfter_nomove (c : BitVec 64) : countAfter .nomove c = c := rfl
@[simp] theorem countAfter_invalid (c : BitVec 64) : countAfter .invalid c = c := rfl

/-- An invalid transition adds 1 modulo 2^32. -/
@[simp] theorem invCountAfter_invalid (n : BitVec 32) : invCountAfter .invalid n = n + 1 := by
  simp only [invCountAfter]
  apply BitVec.eq_of_toNat_eq
  simp

@[simp] theorem invCountAfter_nomove (n : BitVec 32) : invCountAfter .nomove n = n := rfl
@[simp] theorem invCountAfter_fwd (n : BitVec 32) : invCountAfter .fwd n = n := rfl
@[simp] theorem invCountAfter_rev (n : BitVec 32) : invCountAfter .rev n = n := rfl

/-! ### Commands -/

theorem State.whileAttached_none {s : State} (h : s.enc = none) (f : Encoder → State) :
    s.whileAttached f = s.raise .errState := by
  simp [State.whileAttached, h]

theorem State.whileAttached_some {s : State} {e : Encoder} (h : s.enc = some e) (f : Encoder → State) :
    s.whileAttached f = f e := by
  simp [State.whileAttached, h]

/-- CONSTRUCT refuses by state, refuses by argument, or attaches. -/
theorem attach_cases (p : Params) (la lb : LineIdx) (pull : Bool) (imm : BitVec 16) (s : State) :
    (s.enc ≠ none ∧ attach p la lb pull imm s = s.raise .errState) ∨
    (s.enc = none ∧ argsOk p.numLines la lb = false ∧ attach p la lb pull imm s = s.raise .errArg) ∨
    (s.enc = none ∧ argsOk p.numLines la lb = true ∧
      attach p la lb pull imm s =
        ({ s with
          enc := some
            { selA := la, selB := lb, pull := pull, lineA := s.pin la, lineB := s.pin lb,
              phase := phaseOf (s.pin la) (s.pin lb), prevPhase := phaseOf (s.pin la) (s.pin lb),
              count := 0, spr := imm, invCount := 0, lastClass := .nomove },
          pendA := false, pendB := false, dreqA := false, dreqB := false } : State).respond 0) := by
  cases h : s.enc with
  | some e => left; simp [attach, h]
  | none =>
    right
    cases ha : argsOk p.numLines la lb with
    | false => left; simp [attach, h, ha]
    | true => right; simp [attach, h, ha]

/-! ### Notifier and decoder -/

/-- The edge detector while detached: only the pin changes. -/
theorem pinChange_none {s : State} (h : s.enc = none) (p : Params) (l : LineIdx) (v lose : Bool) :
    pinChange p l v lose s = s.drive l v := by
  simp [pinChange, h]

/-- The edge detector while attached: the pin changes, and a change of level on a selected line sets its flag. -/
theorem pinChange_some {s : State} {e : Encoder} (h : s.enc = some e) (p : Params) (l : LineIdx) (v lose : Bool) :
    pinChange p l v lose s =
      { s.drive l v with
        pendA := s.pendA || (decide (l = e.selA) && v != s.pin l && !(p.edgeLoss && lose)),
        pendB := s.pendB || (decide (l = e.selB) && v != s.pin l && !(p.edgeLoss && lose)) } := by
  by_cases ha : l = e.selA <;> by_cases hb : l = e.selB <;>
    cases hv : (v != s.pin l) <;> cases hl : (p.edgeLoss && lose) <;>
    simp_all [pinChange, State.drive]

/-- On this hardware no edge is lost and no draw is made. -/
theorem pinStep_params (l : LineIdx) (v : Bool) (s : State) :
    pinStep Config.params l v s = pinChange Config.params l v false s := rfl

theorem pinLineStep_none {s : State} (h : s.enc = none) (p : Params) (x : Line) (v : Bool) :
    pinLineStep p x v s = s := by
  simp [pinLineStep, h]

theorem pinLineStep_some {s : State} {e : Encoder} (h : s.enc = some e) (p : Params) (x : Line) (v : Bool) :
    pinLineStep p x v s = pinStep p (e.sel x) v s := by
  simp [pinLineStep, h]

/-- On this hardware NOTIFY_X is enabled exactly while attached. -/
theorem notifyStep_params (x : Line) (s : State) :
    notifyStep Config.params x s = if s.att then s.setPend true x else s := by
  simp [notifyStep, Config.params]

/-- SAMPLE_X does nothing or takes the notification of its own line. -/
theorem sampleStep_cases (x : Line) (s : State) :
    ((s.enc = none ∨ s.pend x = false) ∧ sampleStep x s = s) ∨
    (∃ e, s.enc = some e ∧ s.pend x = true ∧
      sampleStep x s =
        { ((s.setPend false x).setDreq true x) with enc := some (e.setLevel (s.pin (e.sel x)) x) }) := by
  cases h : s.enc with
  | none => left; simp [sampleStep, h]
  | some e => cases hp : s.pend x <;> simp [sampleStep, h, hp]

/-- DECODE_X does nothing or makes one transition. -/
theorem decodeStep_cases (x : Line) (s : State) :
    ((s.enc = none ∨ s.dreq x = false) ∧ decodeStep x s = s) ∨
    (∃ e, s.enc = some e ∧ s.dreq x = true ∧
      decodeStep x s = { s.setDreq false x with enc := some (transition e) }) := by
  cases h : s.enc with
  | none => left; simp [decodeStep, h]
  | some e => cases hd : s.dreq x <;> simp [decodeStep, h, hd]

/-! ### Running instructions -/

/-- No instruction stops. -/
theorem exec_isNext (i : Instr) (s : State) : ∃ t, exec i s = .next t := by
  cases i <;> first
    | exact ⟨_, rfl⟩
    | (cases h : s.enc <;> simp [exec, execGetStatus, h])

theorem step_cons {s : State} {ev : Event} {rest : List Event} (h : s.inbox = ev :: rest) :
    step s = runEvent ev { s with inbox := rest } := by
  simp [step, h]

theorem step_nil {s : State} (h : s.inbox = []) : step s = drain s := by
  simp [step, h]

/-- A choice among steps is one of them, and there is none only where there is no step. -/
theorem choose_cases (steps : List Instr) (draw : Nat) :
    (steps = [] ∧ choose steps draw = none) ∨ ∃ i ∈ steps, choose steps draw = some i := by
  match steps with
  | [] => simp [choose]
  | [i] => simp [choose]
  | i :: j :: rest =>
    right
    have h : draw % (rest.length + 2) < (i :: j :: rest).length := Nat.mod_lt _ (by simp)
    exact ⟨_, List.getElem_mem h, by simp only [choose, List.getElem?_eq_getElem h]⟩

end Sys2Proof.Machine
end

