-- ==== Sys2Proof/Laws/PerInstr.lean ====
section
/-! SUPPORT. One family over all instructions, a lemma per constructor: the code the encoder gives has the format of the
instruction's agent and fits its own row of the tables of 30_encoding.md R73 and R78. -/

namespace Sys2Proof.Laws.RowMatch

open Sys2Proof.Machine

/-- A host command's word satisfies w & mask = match for its own row of R73; every other step's code is one of R78's
labels. -/
def Statement (i : Instr) : Prop :=
  match encode i with
  | .cmd w => i.agent = .host ∧ ∃ r ∈ cmdTable, r.1 = i.mnemonic ∧ w &&& r.2.2 = r.2.1
  | .evt c => i.agent ≠ .host ∧ c ∈ evtLabels

theorem construct (la lb : LineIdx) (p : Bool) (imm : BitVec 16) : Statement (.construct la lb p imm) := by
  refine ⟨rfl, ("CONSTRUCT", 0x10000000#32, 0xF00E0000#32), by decide, rfl, ?_⟩
  apply BitVec.eq_of_getLsbD_eq
  intro i hi
  rw [BitVec.getLsbD_and, cmdWord_getLsbD]
  interval_cases i <;> simp

theorem setSpr (imm : BitVec 16) : Statement (.setSpr imm) := by
  refine ⟨rfl, ("SET_SPR", 0x30000000#32, 0xFFFF0000#32), by decide, rfl, ?_⟩
  apply BitVec.eq_of_getLsbD_eq
  intro i hi
  rw [BitVec.getLsbD_and, cmdWord_getLsbD]
  interval_cases i <;> simp

theorem reset : Statement .reset :=
  ⟨rfl, ("RESET", 0x20000000#32, 0xFFFFFFFF#32), by decide, rfl, by decide⟩

theorem getSpr : Statement .getSpr :=
  ⟨rfl, ("GET_SPR", 0x40000000#32, 0xFFFFFFFF#32), by decide, rfl, by decide⟩

theorem getCount : Statement .getCount :=
  ⟨rfl, ("GET_COUNT", 0x50000000#32, 0xFFFFFFFF#32), by decide, rfl, by decide⟩

theorem getTurns : Statement .getTurns :=
  ⟨rfl, ("GET_TURNS", 0x60000000#32, 0xFFFFFFFF#32), by decide, rfl, by decide⟩

theorem getInvalid : Statement .getInvalid :=
  ⟨rfl, ("GET_INVALID", 0x70000000#32, 0xFFFFFFFF#32), by decide, rfl, by decide⟩

theorem getStatus : Statement .getStatus :=
  ⟨rfl, ("GET_STATUS", 0x80000000#32, 0xFFFFFFFF#32), by decide, rfl, by decide⟩

theorem detach : Statement .detach :=
  ⟨rfl, ("DETACH", 0x90000000#32, 0xFFFFFFFF#32), by decide, rfl, by decide⟩

theorem notifyA : Statement .notifyA := ⟨by decide, by decide⟩
theorem notifyB : Statement .notifyB := ⟨by decide, by decide⟩
theorem sampleA : Statement .sampleA := ⟨by decide, by decide⟩
theorem sampleB : Statement .sampleB := ⟨by decide, by decide⟩
theorem decodeA : Statement .decodeA := ⟨by decide, by decide⟩
theorem decodeB : Statement .decodeB := ⟨by decide, by decide⟩
theorem pinA (v : Bool) : Statement (.pinA v) := by cases v <;> exact ⟨by decide, by decide⟩
theorem pinB (v : Bool) : Statement (.pinB v) := by cases v <;> exact ⟨by decide, by decide⟩

end Sys2Proof.Laws.RowMatch
end

