-- ==== Sys2Proof/Tests/Slice0.lean ====
section
/-! SUPPORT. Tests. Expected results come from spec/ (95_test_vectors.md unless a comment names another file), not from
the model. First the form checks, then decoding, the assembler, one step of each instruction, the arithmetic, and a
witness for every statement that has hypotheses. -/

namespace Sys2Proof.Tests

open Sys2Proof.Machine

/-! ### Small states -/

/-- Pins 0 and 1 at the given levels, every other line low. -/
def pins01 (a b : Bool) : Pins := (Vector.replicate 16 false |>.set 0 a).set 1 b

/-- Detached, with those pins. -/
def detached (a b : Bool) : State :=
  { enc := none, pendA := false, pendB := false, dreqA := false, dreqB := false, pins := pins01 a b, inbox := [],
    rsp := none, draws := 0 }

/-- Lines 0 and 1, pull-down, spr 4000, stored levels a and b with their phase, the count given, nothing else. -/
def encoder (a b : Bool) (phase : Phase) (count : BitVec 64) : Encoder :=
  { selA := 0, selB := 1, pull := false, lineA := a, lineB := b, phase := phase, prevPhase := phase, count := count,
    spr := 4000, invCount := 0, lastClass := .nomove }

/-- Attached with that encoder, pins at the stored levels, no flag set. -/
def attached (a b : Bool) (phase : Phase) (count : BitVec 64) : State :=
  { detached a b with enc := some (encoder a b phase count) }

/-- Attached, phase 0, both lines low, both flags of one kind set. -/
def bothPending : State := { attached false false 0 0 with pendA := true, pendB := true, pins := pins01 true true }

/-- Attached, both decodes requested. -/
def bothDecodes : State := { attached true false 0 5 with dreqA := true, dreqB := true }

/-- The parameters of section 7: NUM_LINES = 4. The NaN is the reference draw. -/
def params4 : Params :=
  { numLines := 4, spuriousNotify := true, edgeLoss := false, turnsNan := 0x7FC00000, defaultSpr := 4000 }

/-- The parameters of a platform that loses edges. -/
def paramsLossy : Params := { params4 with edgeLoss := true }

/-- The state after a step, when there is one. -/
def after (o : Host.Outcome State Fault Refusal) : Option State :=
  match o with
  | .next t => some t
  | .fault _ => none
  | .refused _ => none

/-- The response after a step. -/
def response (o : Host.Outcome State Fault Refusal) : Option Rsp := (after o).bind State.rsp

/-- A row of the table of section 3. -/
structure Row where
  old      : Phase
  new      : Phase
  cls      : StepClass
  count    : BitVec 64
  invCount : BitVec 32
deriving DecidableEq, Repr

/-- The row a step gives. -/
def decodeRow (o : Host.Outcome State Fault Refusal) : Option Row :=
  ((after o).bind State.enc).map fun e => ⟨e.prevPhase, e.phase, e.lastClass, e.count, e.invCount⟩

/-! ### Well-formedness: each check refuses an ill-formed term -/

theorem test_wf_params : params4.wf = true := by decide
theorem test_wf_refuses_one_line : Params.wf { params4 with numLines := 1 } = false := by decide
theorem test_wf_refuses_seventeen_lines : Params.wf { params4 with numLines := 17 } = false := by decide
theorem test_wf_refuses_infinity_as_nan : Params.wf { params4 with turnsNan := 0x7F800000 } = false := by decide
theorem test_wf_refuses_signalling_nan : Params.wf { params4 with turnsNan := 0x7FA00000 } = false := by decide
theorem test_wf_line_in_range : Event.wf 4 (.pin 3 true) = true := by decide
theorem test_wf_refuses_line_out_of_range : Event.wf 4 (.pin 4 true) = false := by decide
theorem test_wf_refuses_no_label : Event.wf 4 (.code (.evt 0x10)) = false := by decide
theorem test_wf_any_command_word : Event.wf 4 (.code (.cmd 0xF0000000)) = true := by decide

/-! ### Decoding: words written out from 30_encoding.md R71, R72, R78 -/

/-- OP 1, LA 2, LB 5, RSV 0, P 1, IMM16 100 (T-ENC-2). -/
theorem test_decode_construct :
    decode (.cmd 0b0001_0010_0101_000_1_0000000001100100#32) = .ok (.construct 2 5 true 100) := by decide
/-- T-ENC-4: a legal encoding. -/
theorem test_decode_construct_fifteen : decode (.cmd 0x1FF0FFFF) = .ok (.construct 15 15 false 65535) := by decide
/-- OP 2, zeros. -/
theorem test_decode_reset : decode (.cmd 0b0010_0000_0000_000_0_0000000000000000#32) = .ok .reset := by decide
/-- OP 3, IMM16 2000. -/
theorem test_decode_setSpr :
    decode (.cmd 0b0011_0000_0000_000_0_0000011111010000#32) = .ok (.setSpr 2000) := by decide
/-- OP 4. -/
theorem test_decode_getSpr : decode (.cmd 0b0100_0000_0000_000_0_0000000000000000#32) = .ok .getSpr := by decide
/-- OP 5. -/
theorem test_decode_getCount : decode (.cmd 0b0101_0000_0000_000_0_0000000000000000#32) = .ok .getCount := by decide
/-- OP 6. -/
theorem test_decode_getTurns : decode (.cmd 0b0110_0000_0000_000_0_0000000000000000#32) = .ok .getTurns := by decide
/-- OP 7. -/
theorem test_decode_getInvalid :
    decode (.cmd 0b0111_0000_0000_000_0_0000000000000000#32) = .ok .getInvalid := by decide
/-- OP 8. -/
theorem test_decode_getStatus : decode (.cmd 0b1000_0000_0000_000_0_0000000000000000#32) = .ok .getStatus := by decide
/-- OP 9. -/
theorem test_decode_detach : decode (.cmd 0b1001_0000_0000_000_0_0000000000000000#32) = .ok .detach := by decide
/-- KIND 1, V 0, LINE 1 and 2. -/
theorem test_decode_notifyA : decode (.evt 0b0001_0_001#8) = .ok .notifyA := by decide
theorem test_decode_notifyB : decode (.evt 0b0001_0_010#8) = .ok .notifyB := by decide
/-- KIND 2. -/
theorem test_decode_sampleA : decode (.evt 0b0010_0_001#8) = .ok .sampleA := by decide
theorem test_decode_sampleB : decode (.evt 0b0010_0_010#8) = .ok .sampleB := by decide
/-- KIND 3. -/
theorem test_decode_decodeA : decode (.evt 0b0011_0_001#8) = .ok .decodeA := by decide
theorem test_decode_decodeB : decode (.evt 0b0011_0_010#8) = .ok .decodeB := by decide
/-- KIND 4, V the level. -/
theorem test_decode_pinA :
    decode (.evt 0b0100_0_001#8) = .ok (.pinA false) ∧ decode (.evt 0b0100_1_001#8) = .ok (.pinA true) := by decide
theorem test_decode_pinB :
    decode (.evt 0b0100_0_010#8) = .ok (.pinB false) ∧ decode (.evt 0b0100_1_010#8) = .ok (.pinB true) := by decide
/-- T-ENC-6, 7, 9, 10, 14, 15, 17: a bit outside the free fields. -/
theorem test_decode_reserved_bits :
    ([0x10020FA0#32, 0x10080000#32, 0x20000001#32, 0x28000000#32, 0x30010FA0#32, 0x31000000#32, 0x50000001#32,
        0x8000FFFF#32, 0x90100000#32].all fun w => decode (.cmd w) == .rejected .reservedBits) = true := by decide
/-- T-ENC-18, 19: a reserved OP. -/
theorem test_decode_reserved_op :
    ([0x00000000#32, 0x0FFFFFFF#32, 0xA0000000#32, 0xB0000000#32, 0xC0000000#32, 0xD0000000#32, 0xE0000000#32,
        0xF0000000#32, 0xFFFFFFFF#32].all fun w => decode (.cmd w) == .rejected .reservedOp) = true := by decide
/-- V in a code that has none, LINE 0 and 3, KIND 0 and 5 (R78). -/
theorem test_decode_no_label :
    ([0x19#8, 0x20#8, 0x33#8, 0x02#8, 0x51#8, 0x00#8, 0xFF#8].all fun c => decode (.evt c) == .rejected .notALabel) =
      true := by decide
/-- 20_memory.md R53: command byte 0 is CMD[7:0]. -/
theorem test_decode_bytes : decodeBytes [0xA0, 0x0F, 0x10, 0x10] = .ok (.construct 0 1 false 4000) := by decide
theorem test_decode_bytes_length : decodeBytes [0xA0, 0x0F, 0x10] = .rejected .badLength := by decide
theorem test_table_word : decodeTableWord 32 0x50000000 = some .getCount ∧ decodeTableWord 8 0x21 = some .sampleA := by
  decide

/-! ### The assembler (30_encoding.md R82, R83, R84) -/

theorem test_asm_comment_and_hex :
    assembleLine 4000 "SET_SPR 0x7D0 ; two thousand".toList = .event (.code (.cmd 0x300007D0)) := by decide
theorem test_asm_pin : assembleLine 4000 "PIN 2, 1".toList = .event (.pin 2 true) := by decide
theorem test_asm_label : assembleLine 4000 "PIN_B 1".toList = .event (.code (.evt 0x4A)) := by decide
theorem test_asm_out_of_range : assembleLine 4000 "CONSTRUCT 16, 1".toList = .error .outOfRange := by decide

/-! ### One step of each instruction -/

/-- R141's example: pins (1, 1) seed phase and prevPhase 2. -/
theorem test_construct_seeds :
    (after (exec (.construct 0 1 false 4000) (detached true true))).bind State.enc =
      some { encoder true true 2 0 with spr := 4000 } := by decide
/-- T-ERR-9, 7, 8, 6: NUM_LINES = 4. -/
theorem test_construct_arguments :
    (attach params4 0 3 false 4000 (detached false false)).rsp = some ⟨.ok, 0⟩ ∧
    (attach params4 5 1 false 4000 (detached false false)) = { detached false false with rsp := some ⟨.errArg, 0⟩ } ∧
    (attach params4 0 4 false 4000 (detached false false)).rsp = some ⟨.errArg, 0⟩ ∧
    (attach params4 3 3 false 4000 (detached false false)).rsp = some ⟨.errArg, 0⟩ ∧
    (attach params4 3 3 false 4000 (attached false false 0 0)).rsp = some ⟨.errState, 0⟩ := by decide
/-- V-SRC-4: count 37, phase 3, pins (1, 0). -/
theorem test_reset_reseeds :
    (after (exec .reset { attached false true 3 37 with pins := pins01 true false, pendB := true })).map
        (fun t => (t.enc, t.pendB)) = some (some (encoder true false 1 0), true) := by decide
/-- T-ERR-3. -/
theorem test_reset_detached : response (exec .reset (detached false false)) = some ⟨.errState, 0⟩ := by decide
/-- P3 step 10: 0 is accepted. -/
theorem test_setSpr_zero :
    after (exec (.setSpr 0) (attached false true 3 2)) =
      some { attached false true 3 2 with
        enc := some { encoder false true 3 2 with spr := 0 }, rsp := some ⟨.ok, 0⟩ } := by decide
/-- T-ERR-5. -/
theorem test_setSpr_detached : response (exec (.setSpr 2000) (detached false false)) = some ⟨.errState, 0⟩ := by decide
/-- T-ERR-14. -/
theorem test_getSpr : response (exec .getSpr (attached false false 0 0)) = some ⟨.ok, 0x0FA0⟩ := by decide
/-- T-ERR-16. -/
theorem test_getCount_negative :
    response (exec .getCount (attached false false 0 (-4))) = some ⟨.ok, 0xFFFFFFFFFFFFFFFC⟩ := by decide
/-- T-ERR-1. -/
theorem test_getCount_detached : response (exec .getCount (detached false false)) = some ⟨.errState, 0⟩ := by decide
/-- V-SRC-6. -/
theorem test_getTurns_half : response (exec .getTurns (attached false false 0 2000)) = some ⟨.ok, 0x3F000000⟩ := by decide
/-- T-ERR-15. -/
theorem test_getInvalid :
    response (exec .getInvalid
      { attached false false 0 0 with enc := some { encoder false false 0 0 with invCount := 3 } }) =
      some ⟨.ok, 3⟩ := by decide
/-- T-STS-3. -/
theorem test_getStatus_forward :
    response (exec .getStatus
      { attached true true 2 0 with
        enc := some { encoder true true 2 0 with prevPhase := 1, lastClass := .fwd } }) =
      some ⟨.ok, 0x1000B7⟩ := by decide
/-- P2 step 7: DREQB, INVALID. -/
theorem test_getStatus_invalid :
    response (exec .getStatus
      { attached true true 2 0 with
        enc := some { encoder true true 2 0 with prevPhase := 0, lastClass := .invalid }, dreqB := true }) =
      some ⟨.ok, 0x101197⟩ := by decide
/-- P4 step 12: the undecoded sample is discarded. -/
theorem test_detach_discards :
    after (exec .detach { attached true false 0 0 with dreqA := true }) =
      some { detached true false with rsp := some ⟨.ok, 0⟩ } := by decide
/-- T-ERR-4. -/
theorem test_detach_detached : response (exec .detach (detached false false)) = some ⟨.errState, 0⟩ := by decide
/-- R103's example. -/
theorem test_notifyA :
    after (exec .notifyA (attached true false 1 0)) = some { attached true false 1 0 with pendA := true } := by decide
theorem test_notifyB :
    after (exec .notifyB (attached true false 1 0)) = some { attached true false 1 0 with pendB := true } := by decide
/-- R105's example. -/
theorem test_sampleA :
    after (exec .sampleA { attached false false 0 0 with pendA := true, pins := pins01 true false }) =
      some { attached false false 0 0 with
        enc := some { encoder false false 0 0 with lineA := true }, dreqA := true, pins := pins01 true false } := by
  decide
/-- R106's example. -/
theorem test_sampleB :
    after (exec .sampleB { attached true true 2 0 with pendB := true, pins := pins01 true false }) =
      some { attached true true 2 0 with
        enc := some { encoder true true 2 0 with lineB := false }, dreqB := true, pins := pins01 true false } := by
  decide
/-- R130's example. -/
theorem test_decodeA :
    after (exec .decodeA { attached true false 0 5 with dreqA := true }) =
      some { attached true false 0 5 with
        enc := some { encoder true false 1 6 with prevPhase := 0, lastClass := .fwd } } := by decide
/-- R131's example. -/
theorem test_decodeB :
    after (exec .decodeB { attached true true 1 6 with dreqB := true }) =
      some { attached true true 1 6 with
        enc := some { encoder true true 2 7 with prevPhase := 1, lastClass := .fwd } } := by decide
/-- T-NTF-1. -/
theorem test_pinA :
    after (exec (.pinA true) (attached false false 0 0)) =
      some { attached false false 0 0 with pins := pins01 true false, pendA := true } := by decide
/-- T-NTF-2 for line B: no change, no edge. -/
theorem test_pinB :
    after (exec (.pinB true) (attached false true 3 0)) = some (attached false true 3 0) := by decide
/-- T-NTF-3 and T-NTF-4: an unselected line, and a detached block. -/
theorem test_pin_elsewhere :
    pinChange params4 2 true false (attached false false 0 0) =
      { attached false false 0 0 with pins := (pins01 false false).set 2 true } ∧
    pinChange params4 0 true false (detached false false) = detached true false := by decide
/-- 40_notifier.md R101 with EDGE_LOSS and the draw. -/
theorem test_pin_lost_edge :
    (pinChange paramsLossy 0 true true (attached false false 0 0)).pendA = false ∧
    (pinChange paramsLossy 0 true false (attached false false 0 0)).pendA = true := by decide
/-- T-ERR-12: ILLEGAL before STATE. -/
theorem test_illegal_word :
    response (step { detached false false with inbox := [.code (.cmd 0x10020FA0)] }) = some ⟨.errIllegal, 0⟩ := by decide

/-! ### The transition table (T-DEC rows) and the counters' corners -/

/-- DECODE_A from an old phase with the stored lines given, count 0. -/
def fromPhase (old : Phase) (a b : Bool) : Host.Outcome State Fault Refusal :=
  exec .decodeA { attached a b old 0 with dreqA := true }

/-- T-DEC-1 to 4. -/
theorem test_transition_from_0 :
    decodeRow (fromPhase 0 false false) = some ⟨0, 0, .nomove, 0, 0⟩ ∧
    decodeRow (fromPhase 0 true false) = some ⟨0, 1, .fwd, 1, 0⟩ ∧
    decodeRow (fromPhase 0 true true) = some ⟨0, 2, .invalid, 0, 1⟩ ∧
    decodeRow (fromPhase 0 false true) = some ⟨0, 3, .rev, 0xFFFFFFFFFFFFFFFF, 0⟩ := by decide
/-- T-DEC-13 to 16. -/
theorem test_transition_from_3 :
    decodeRow (fromPhase 3 false false) = some ⟨3, 0, .fwd, 1, 0⟩ ∧
    decodeRow (fromPhase 3 true false) = some ⟨3, 1, .invalid, 0, 1⟩ ∧
    decodeRow (fromPhase 3 true true) = some ⟨3, 2, .rev, 0xFFFFFFFFFFFFFFFF, 0⟩ ∧
    decodeRow (fromPhase 3 false true) = some ⟨3, 3, .nomove, 0, 0⟩ := by decide
/-- T-CNT-1. -/
theorem test_count_wraps_up :
    decodeRow (exec .decodeA { attached true false 0 0x7FFFFFFFFFFFFFFF with dreqA := true }) =
      some ⟨0, 1, .fwd, 0x8000000000000000, 0⟩ := by decide
/-- T-INV-1. -/
theorem test_invCount_wraps :
    decodeRow (exec .decodeA
      { attached true true 0 0 with
        enc := some { encoder true true 0 0 with invCount := 0xFFFFFFFF }, dreqA := true }) =
      some ⟨0, 2, .invalid, 0, 0⟩ := by decide

/-! ### GET_TURNS (T-TURN rows) -/

/-- T-TURN-2, 5, 8, 15: rounded, negative, zero, the smallest. -/
theorem test_turns_small :
    turns32 0x7FC00000 1 4000 = 0x3983126F ∧ turns32 0x7FC00000 (-4) 4000 = 0xBA83126F ∧
    turns32 0x7FC00000 0 4000 = 0x00000000 ∧ turns32 0x7FC00000 1 65535 = 0x37800080 := by decide
/-- T-TURN-9, 10, 11, 12: the conversion rounds, the two ends, two roundings. -/
theorem test_turns_large :
    turns32 0x7FC00000 16777217 1 = 0x4B800000 ∧ turns32 0x7FC00000 0x7FFFFFFFFFFFFFFF 1 = 0x5F000000 ∧
    turns32 0x7FC00000 0x8000000000000000 65535 = 0xD7000080 ∧ turns32 0x7FC00000 16777221 3 = 0x4AAAAAAD := by decide
/-- T-TURN-24, 25, 26. -/
theorem test_turns_zero_spr :
    turns32 0x7FC00000 5 0 = 0x7F800000 ∧ turns32 0x7FC00000 (-5) 0 = 0xFF800000 ∧
    turns32 0x7FC00000 0 0 = 0x7FC00000 := by decide

/-! ### Witnesses: states and operands that meet the hypotheses of each statement, clause by clause -/

/-- The two lines every hardware has exist (00_scope.md R8: NUM_LINES is at least 2). -/
theorem witness_lines_zero_and_one :
    (0#4).toNat < Config.numLines ∧ (1#4).toNat < Config.numLines ∧ (0#4) ≠ 1#4 := by decide

theorem witness_EncodeDecodeReturnsCode :
    decode (.cmd 0x1FF1FFFF) = .ok (.construct 15 15 true 65535) ∧ decode (.evt 0x4A) = .ok (.pinB true) := by decide
theorem witness_CommandRowsByMaskAndMatch :
    ("SET_SPR", 0x30000000#32, 0xFFFF0000#32) ∈ cmdTable ∧ 0x3000FFFF#32 &&& 0xFFFF0000#32 = 0x30000000#32 ∧
    (∀ r ∈ cmdTable, 0x10080000#32 &&& r.2.2 ≠ r.2.1) := by decide
theorem witness_StepLabelCodes :
    0x19#8 ∉ [0x11#8, 0x12#8, 0x21#8, 0x22#8, 0x31#8, 0x32#8, 0x41#8, 0x49#8, 0x42#8, 0x4A#8] := by decide
theorem witness_WorkedEncodings : 0xF0000000#32 ∈ [0x00000000#32, 0xF0000000#32, 0x20000001#32] := by decide
theorem witness_TransportIsLittleEndian : 0 < 4 ∧ 3 < 4 ∧ 7 < 8 := by decide
theorem witness_HostCannotIssueInternalSteps :
    decode (.cmd 0x90000000) = .ok .detach ∧ decode (.evt 0x11) = .ok .notifyA := by decide
theorem witness_AssemblerPseudoInstructions : 15 < 16 ∧ 0 < 16 ∧ 65535 < 65536 := by decide
theorem witness_AssemblerRefusesOutOfRange : 16 > 15 ∧ 65536 > 65535 := by decide

theorem witness_StepRunsDecodedInstruction :
    ({ detached true false with inbox := [.code (.cmd 0x10100FA0)] } : State).inbox = .code (.cmd 0x10100FA0) :: [] ∧
    decode (.cmd 0x10100FA0) = .ok (.construct 0 1 false 4000) ∧
    decodeTableWord 32 0x10100FA0 = some (.construct 0 1 false 4000) ∧ decodeTableWord 8 0x32 = some .decodeB := by
  decide
theorem witness_IdleStepTakesAPendingStep : bothPending.inbox = [] ∧ State.reset.inbox = [] := ⟨rfl, rfl⟩
/-- No event at all, a command word, a label and a PIN on an existing line. -/
theorem witness_NoStepTrapsOrHalts :
    State.reset.inbox = [] ∧ Event.wf Config.numLines (.code (.cmd 0)) = true ∧
    Event.wf Config.numLines (.code (.evt 0x4A)) = true ∧ Event.wf Config.numLines (.pin 1 true) = true ∧
    Instr.detach.agent = .host ∧ Instr.decodeB.agent ≠ .host ∧ (Status.errState ≠ .ok) :=
  ⟨rfl, rfl, by decide, by decide, rfl, by decide, by decide⟩
theorem witness_IllegalWordAnswersErrIllegal :
    (∀ r ∈ cmdTable, 0xF0000000#32 &&& r.2.2 ≠ r.2.1) ∧
    ({ detached true false with inbox := [.code (.cmd 0xF0000000)] } : State).inbox =
      .code (.cmd 0xF0000000) :: [] := by decide
/-- Line 4 where NUM_LINES is 4, an 8-bit code that is no label, and events at the head of an inbox. -/
theorem witness_NonStepsStopByName :
    params4.numLines ≤ (4#4).toNat ∧ 0x10#8 ∉ evtLabels ∧
    ({ detached true false with inbox := [.pin 15 true] } : State).inbox = .pin 15 true :: [] ∧
    ({ detached true false with inbox := [.code (.evt 0x10)] } : State).inbox = .code (.evt 0x10) :: [] := by decide
theorem witness_DisabledStepChangesNothing :
    enabled Config.params (detached true false) .sampleA = false ∧
    enabled Config.params (attached true false 1 0) .decodeB = false := by decide

/-- A detached block with good arguments, an attached one, a detached one with equal lines, and the boundary lines 3 and 4
where NUM_LINES is 4; a word with RSV 0 and one with RSV set. -/
theorem witness_ConstructAttachesAndSeeds :
    (detached true false).enc = none ∧ (attached true false 1 0).enc ≠ none ∧ (7#4 = 7#4) ∧
    ¬ (params4.numLines ≤ (3#4).toNat) ∧ params4.numLines ≤ (4#4).toNat ∧
    (0x10100FA0#32).extractLsb' 28 4 = 0x1#4 ∧ (0x10100FA0#32).extractLsb' 17 3 = 0#3 ∧
    (0x10080000#32).extractLsb' 28 4 = 0x1#4 ∧ (0x10080000#32).extractLsb' 17 3 ≠ 0#3 := by decide
/-- 0x10020000 (R182's example), GET_COUNT while detached, CONSTRUCT 3, 3 in both states. -/
theorem witness_ErrorCausesAndPriority :
    (∀ r ∈ cmdTable, 0x10020000#32 &&& r.2.2 ≠ r.2.1) ∧ decode (.cmd 0x50000000) = .ok .getCount ∧
    decode (.cmd 0x13300FA0) = .ok (.construct 3 3 false 4000) ∧ (detached true false).att = false ∧
    (attached true false 1 0).att = true ∧ Instr.getCount ≠ .getStatus := by decide
/-- An attached block, a detached one, a word with the OP and a bit set, for the six commands without operands that need
att = 1 and for GET_STATUS. -/
theorem witness_commands_without_operands :
    (attached true false 1 0).enc = some (encoder true false 1 0) ∧ (detached true false).enc = none ∧
    ([0x28000000#32, 0x40000001#32, 0x50000001#32, 0x60010000#32, 0x70000100#32, 0x8000FFFF#32, 0x90100000#32].all
      fun w => w.extractLsb' 0 28 != 0#28) = true ∧
    (0x28000000#32).extractLsb' 28 4 = 0x2#4 ∧ (0x40000001#32).extractLsb' 28 4 = 0x4#4 ∧
    (0x50000001#32).extractLsb' 28 4 = 0x5#4 ∧ (0x60010000#32).extractLsb' 28 4 = 0x6#4 ∧
    (0x70000100#32).extractLsb' 28 4 = 0x7#4 ∧ (0x8000FFFF#32).extractLsb' 28 4 = 0x8#4 ∧
    (0x90100000#32).extractLsb' 28 4 = 0x9#4 := by decide
theorem witness_ResetReseedsAndZeroes : (attached true false 1 0).enc = some (encoder true false 1 0) := by decide
theorem witness_SetSprStoresAnyValue :
    (0x30010FA0#32).extractLsb' 28 4 = 0x3#4 ∧ (0x30010FA0#32).extractLsb' 16 12 ≠ 0#12 ∧
    (attached true false 1 0).enc = some (encoder true false 1 0) ∧ (detached true false).enc = none := by decide
theorem witness_GetSprAnswersSpr : (attached true false 1 0).enc = some (encoder true false 1 0) := by decide
theorem witness_GetCountAnswersCount :
    (attached true false 1 (-1)).enc = some (encoder true false 1 (-1)) := by decide
theorem witness_GetInvalidAnswersInvCount : (attached true false 1 0).enc = some (encoder true false 1 0) := by decide
theorem witness_GetTurnsAnswersTurns : (attached true false 1 9).enc = some (encoder true false 1 9) := by decide
theorem witness_GetStatusAnswersStatusWord :
    bothDecodes.enc = some (encoder true false 0 5) ∧ bothDecodes.quiescent = false ∧
    (attached true false 1 0).quiescent = true ∧ (detached true false).enc = none := by decide
theorem witness_DetachTearsDown : bothDecodes.enc = some (encoder true false 0 5) := by decide
theorem witness_NothingSurvivesDetach :
    bothDecodes.enc ≠ none ∧ (attached true false 1 9).enc ≠ none ∧ bothDecodes.pins = (attached true false 1 9).pins ∧
    bothDecodes.inbox = (attached true false 1 9).inbox ∧ bothDecodes.draws = (attached true false 1 9).draws ∧
    (after (exec .detach bothDecodes)).isSome = true := by decide
theorem witness_ReadsAreIdempotent : (after (exec .reset bothDecodes)).isSome = true := by decide
/-- A RESET of a count that is not 0, and a CONSTRUCT. -/
theorem witness_CountIsZeroedOnlyWithReseed :
    Instr.reset.agent = .host ∧
    ((after (exec .reset bothDecodes)).bind State.enc).map Encoder.count = some 0 ∧
    bothDecodes.enc.map Encoder.count = some 5 ∧
    ((after (exec (.construct 0 1 false 0) (detached true false))).bind State.enc).isSome = true := by decide
/-- spr = 0 with a positive count, a negative one and 0. -/
theorem witness_TurnsByZeroStepsPerRevolution :
    ({ attached true false 1 0 with enc := some { encoder true false 1 (-1) with spr := 0 } } : State).enc =
      some { encoder true false 1 (-1) with spr := 0 } ∧
    0 < (1#64).toInt ∧ (-1#64).toInt < 0 ∧ (0#64).toInt = 0 := by decide
/-- A divisor, count 0, the two ends of the count, and the last count that converts exactly. -/
theorem witness_TurnsAreCorrectlyRounded :
    (3#16) ≠ 0 ∧ (0x7FFFFFFFFFFFFFFF#64) ≠ 0 ∧ (0x8000000000000000#64).toInt < 0 ∧ 0 < (0x7FFFFFFFFFFFFFFF#64).toInt ∧
    (16777216#64).toInt = 2 ^ 24 := by decide

theorem witness_PinChangeRaisesPending :
    ({ attached true false 1 0 with inbox := [.pin 1 true] } : State).inbox = .pin 1 true :: [] ∧
    (1#4).toNat < Config.numLines ∧ (detached true false).enc = none ∧
    ({ attached true false 1 0 with inbox := [.pin 1 true] } : State).enc = some (encoder true false 1 0) := by decide
theorem witness_PinLabelsDriveSelectedLines :
    (attached true false 1 0).enc = some (encoder true false 1 0) ∧
    (encoder true false 1 0).selA ≠ (encoder true false 1 0).selB := by decide
theorem witness_NotifySetsPending : (attached true false 1 0).enc ≠ none := by decide
theorem witness_SampleTakesItsOwnLine :
    bothPending.enc = some (encoder false false 0 0) ∧ bothPending.pendA = true ∧ bothPending.pendB = true := by decide
theorem witness_DetachedNotifierIsSilent :
    (detached true false).att = false ∧ (1#4).toNat < Config.numLines := by decide
/-- For either line: the lines differ, the phase is in step and the pin is at the stored level. -/
theorem witness_CoalescedEdgesCountOnce :
    (attached true false 1 0).enc = some (encoder true false 1 0) ∧
    (encoder true false 1 0).selA ≠ (encoder true false 1 0).selB ∧ (encoder true false 1 0).inStep = true ∧
    (∀ x ∈ [Line.a, Line.b],
      (attached true false 1 0).pin ((encoder true false 1 0).sel x) = (encoder true false 1 0).level x) := by decide
theorem witness_OrderOfTheLinesDoesNotMatter : bothDecodes.dreqA = true ∧ bothDecodes.dreqB = true := by decide
theorem witness_PhaseMapIsGrayOrdered : phaseOf false false = phaseOf false true + 1 := by decide
theorem witness_DecodeMakesOneTransition :
    bothDecodes.enc = some (encoder true false 0 5) ∧ bothDecodes.dreqA = true ∧ bothDecodes.dreqB = true := by decide
/-- A forward step at the top, a reverse step at the bottom, an invalid transition. -/
theorem witness_CountersWrap :
    ({ attached true false 0 0x7FFFFFFFFFFFFFFF with dreqA := true } : State).dreq .a = true ∧
    ({ attached true false 0 0 with dreqB := true } : State).dreq .b = true ∧
    phaseOf true false = (0#2) + 1 ∧ phaseOf false false = (1#2) - 1 ∧ phaseOf true true = (0#2) + 2 := by decide
theorem witness_RepeatedDecodeIsNoMove :
    ({ attached true false 1 0 with dreqB := true } : State).dreq .b = true ∧
    (encoder true false 1 0).phase = phaseOf true false := by decide
/-- Line A changes from equal lines; line B's change is the same state's second clause. -/
theorem witness_OneLineChangeIsOneStep :
    bothPending.enc = some (encoder false false 0 0) ∧ (encoder false false 0 0).inStep = true ∧
    (∀ x ∈ [Line.a, Line.b],
      bothPending.pend x = true ∧
      bothPending.pin ((encoder false false 0 0).sel x) = !(encoder false false 0 0).level x) := by decide
theorem witness_DoubleEdgeLosesTwoSteps :
    bothPending.enc = some (encoder false false 0 0) ∧ (encoder false false 0 0).inStep = true ∧
    bothPending.pendA = true ∧ bothPending.pendB = true ∧
    bothPending.pin (encoder false false 0 0).selA = !(encoder false false 0 0).lineA ∧
    bothPending.pin (encoder false false 0 0).selB = !(encoder false false 0 0).lineB ∧
    (encoder false false 0 0).phase = 0 := by decide
theorem witness_InvertedWiringCountsTheSame :
    Instr.decodeA ≠ .getStatus ∧ (after (exec .decodeA bothDecodes)).isSome = true := by decide
theorem witness_FirstStepAfterResetIsOneStep :
    bothPending.enc = some (encoder false false 0 0) ∧
    (encoder false false 0 0).selA ≠ (encoder false false 0 0).selB := by decide
theorem witness_CountLagsThePins : (attached true false 1 9).enc = some (encoder true false 1 9) := by decide
/-- Both lines low, in step and quiescent, with each cycle scheduled. -/
theorem witness_FullCycleCountsFour :
    (∀ cyc ∈ [forwardCycle, reverseCycle],
      ({ attached false false 0 9 with inbox := cyc ++ [] } : State).enc = some (encoder false false 0 9) ∧
      ({ attached false false 0 9 with inbox := cyc ++ [] } : State).quiescent = true ∧
      ({ attached false false 0 9 with inbox := cyc ++ [] } : State).inbox = cyc ++ []) ∧
    (encoder false false 0 9).selA ≠ (encoder false false 0 9).selB ∧ (encoder false false 0 9).lineA = false ∧
    (encoder false false 0 9).lineB = false ∧ (encoder false false 0 9).phase = 0 ∧
    (attached false false 0 9).pin 0 = false ∧ (attached false false 0 9).pin 1 = false := by decide

/-- Steps that change att, a flag, the pins, the response and the fields of the encoder. -/
theorem witness_OnlyTheListedStepsWriteAField :
    (after (exec .detach bothDecodes)).map State.att = some false ∧ bothDecodes.att = true ∧
    (after (exec .notifyB bothDecodes)).map State.pendB = some true ∧ bothDecodes.pendB = false ∧
    (after (exec .sampleA bothPending)).map State.dreqA = some true ∧ bothPending.dreqA = false ∧
    (after (exec (.pinA false) bothDecodes)).map State.pins = some (pins01 false false) ∧
    bothDecodes.pins ≠ pins01 false false ∧
    ((after (exec (.setSpr 7) bothDecodes)).bind State.enc).map Encoder.spr = some 7 ∧
    (encoder true false 0 5).spr ≠ 7 ∧ Instr.setSpr 7 ≠ .decodeA ∧ Instr.setSpr 7 ≠ .reset := by decide
/-- An attached block whose count changes, and a detached one that is constructed. -/
theorem witness_CountMovesInUnitSteps :
    ((after (exec .decodeA bothDecodes)).bind State.enc).map Encoder.count = some 6 ∧
    bothDecodes.enc.map Encoder.count = some 5 ∧ (detached true false).enc = none ∧
    ((after (exec (.construct 0 1 false 0) (detached true false))).bind State.enc).isSome = true := by decide
/-- A state with a decode waiting, and a step from it. -/
theorem witness_StepKeepsConsistent :
    ({ bothDecodes with inbox := [.code (.evt 0x31)] } : State).consistent = true ∧
    (after (step { bothDecodes with inbox := [.code (.evt 0x31)] })).isSome = true := by decide
theorem witness_StepKeepsNoLostEdge :
    ({ bothPending with inbox := [.code (.evt 0x21)] } : State).noLostEdge = true ∧
    (after (step { bothPending with inbox := [.code (.evt 0x21)] })).isSome = true := by decide
theorem witness_StepKeepsOriginModFour :
    ({ bothDecodes with inbox := [.code (.evt 0x31)] } : State).enc = some (encoder true false 0 5) ∧
    ((after (step { bothDecodes with inbox := [.code (.evt 0x31)] })).bind State.enc).isSome = true ∧
    decode (.evt 0x31) ≠ .ok .reset := by decide
theorem witness_QuiescenceWithinSixSteps :
    bothPending.consistent = true ∧ bothPending.noLostEdge = true ∧ bothPending.inbox = [] := by decide

end Sys2Proof.Tests
end

/-! SUPPORT. What a step does where its guard does not hold (00_scope.md R11; log entry 3). -/

namespace Sys2Proof.Machine

/-! ### The guards -/

theorem State.att_eq_false_iff (s : State) : s.att = false ↔ s.enc = none := by
  simp [State.att]

/-- A guard "attached and flag" fails while detached or where the flag is clear. -/
theorem State.att_and_eq_false_iff (s : State) (flag : Bool) :
    (s.att && flag) = false ↔ s.enc = none ∨ flag = false := by
  rw [Bool.and_eq_false_iff, s.att_eq_false_iff]

/-- A host command is enabled in every state. -/
theorem enabled_of_agent_host (p : Params) (s : State) {i : Instr} (h : i.agent = .host) : enabled p s i = true := by
  cases i with
  | construct | reset | setSpr | getSpr | getCount | getTurns | getInvalid | getStatus | detach => rfl
  | notifyA | notifyB | sampleA | sampleB | decodeA | decodeB | pinA | pinB => cases h

/-! ### The steps of the notifiers, the decoder and the ENV where their guards fail -/

theorem notifyStep_disabled {p : Params} {s : State} (h : (s.att && p.spuriousNotify) = false) (x : Line) :
    notifyStep p x s = s := by
  simp [notifyStep, h]

theorem sampleStep_disabled {x : Line} {s : State} (h : (s.att && s.pend x) = false) : sampleStep x s = s := by
  rw [State.att_and_eq_false_iff] at h
  obtain ⟨-, hs⟩ | ⟨e, he, hp, -⟩ := sampleStep_cases x s
  · exact hs
  · simp [he, hp] at h

theorem decodeStep_disabled {x : Line} {s : State} (h : (s.att && s.dreq x) = false) : decodeStep x s = s := by
  rw [State.att_and_eq_false_iff] at h
  obtain ⟨-, hs⟩ | ⟨e, he, hd, -⟩ := decodeStep_cases x s
  · exact hs
  · simp [he, hd] at h

theorem pinLineStep_disabled {s : State} (h : s.att = false) (p : Params) (x : Line) (v : Bool) :
    pinLineStep p x v s = s :=
  pinLineStep_none (s.att_eq_false_iff.mp h) p x v

/-! ### The obligation -/

/-- Settles O15, by the instruction: a host command is never disabled, and each other instruction is the `next` of a
shared step that answers its own state where its guard fails. -/
theorem disabledStepChangesNothing : Obligations.DisabledStepChangesNothing := by
  intro i s h
  cases i with
  | construct | reset | setSpr | getSpr | getCount | getTurns | getInvalid | getStatus | detach =>
    rw [enabled_of_agent_host _ _ rfl] at h
    cases h
  | notifyA => exact congrArg Host.Outcome.next (notifyStep_disabled h .a)
  | notifyB => exact congrArg Host.Outcome.next (notifyStep_disabled h .b)
  | sampleA => exact congrArg Host.Outcome.next (sampleStep_disabled (x := .a) h)
  | sampleB => exact congrArg Host.Outcome.next (sampleStep_disabled (x := .b) h)
  | decodeA => exact congrArg Host.Outcome.next (decodeStep_disabled (x := .a) h)
  | decodeB => exact congrArg Host.Outcome.next (decodeStep_disabled (x := .b) h)
  | pinA v => exact congrArg Host.Outcome.next (pinLineStep_disabled h Config.params .a v)
  | pinB v => exact congrArg Host.Outcome.next (pinLineStep_disabled h Config.params .b v)

end Sys2Proof.Machine

/-! SUPPORT. What running one instruction, and one step of the machine, can do, said once: every invariant and frame
is then a case analysis on it. -/

namespace Sys2Proof.Machine

/-- NOTIFY_X (40_notifier.md R103, R104). -/
def notifyOf : Line → Instr
  | .a => .notifyA
  | .b => .notifyB

/-! ### The labels of a line -/

@[simp] theorem pinOf_agent (v : Bool) (x : Line) : (pinOf v x).agent = .env := by cases x <;> rfl
@[simp] theorem notifyOf_agent_ne_host (x : Line) : (notifyOf x).agent ≠ .host := by cases x <;> decide
@[simp] theorem sampleOf_agent_ne_host (x : Line) : (sampleOf x).agent ≠ .host := by cases x <;> decide
@[simp] theorem decodeOf_agent (x : Line) : (decodeOf x).agent = .decoder := by cases x <;> rfl

theorem exec_notifyOf (x : Line) (s : State) : exec (notifyOf x) s = .next (notifyStep Config.params x s) := by
  cases x <;> rfl

theorem exec_sampleOf (x : Line) (s : State) : exec (sampleOf x) s = .next (sampleStep x s) := by cases x <;> rfl

theorem exec_decodeOf (x : Line) (s : State) : exec (decodeOf x) s = .next (decodeStep x s) := by cases x <;> rfl

theorem exec_pinOf (v : Bool) (x : Line) (s : State) :
    exec (pinOf v x) s = .next (pinLineStep Config.params x v s) := by
  cases x <;> rfl

/-! ### GET_STATUS (42_commands.md R149) -/

theorem exec_getStatus_none {s : State} (h : s.enc = none) : exec .getStatus s = .next (s.respond 0) := by
  simp [exec, execGetStatus, h]

theorem exec_getStatus_some {s : State} {e : Encoder} (h : s.enc = some e) :
    exec .getStatus s = .next (s.respond (statusWord s e)) := by
  simp [exec, execGetStatus, h]

/-! ### What the edge detector leaves unchanged (40_notifier.md R101) -/

section
variable (p : Params) (l : LineIdx) (v lose : Bool) (s : State)

/-- The edge detector writes pins and pending flags only. -/
theorem pinChange_writes : ∃ ps pa pb, pinChange p l v lose s = { s with pins := ps, pendA := pa, pendB := pb } := by
  obtain h | ⟨e, h⟩ := s.enc.eq_none_or_eq_some
  · exact ⟨_, _, _, pinChange_none h p l v lose⟩
  · exact ⟨_, _, _, pinChange_some h p l v lose⟩

@[simp] theorem pinChange_enc : (pinChange p l v lose s).enc = s.enc := by
  obtain ⟨_, _, _, h⟩ := pinChange_writes p l v lose s; rw [h]
@[simp] theorem pinChange_dreqA : (pinChange p l v lose s).dreqA = s.dreqA := by
  obtain ⟨_, _, _, h⟩ := pinChange_writes p l v lose s; rw [h]
@[simp] theorem pinChange_dreqB : (pinChange p l v lose s).dreqB = s.dreqB := by
  obtain ⟨_, _, _, h⟩ := pinChange_writes p l v lose s; rw [h]
@[simp] theorem pinChange_inbox : (pinChange p l v lose s).inbox = s.inbox := by
  obtain ⟨_, _, _, h⟩ := pinChange_writes p l v lose s; rw [h]
@[simp] theorem pinChange_rsp : (pinChange p l v lose s).rsp = s.rsp := by
  obtain ⟨_, _, _, h⟩ := pinChange_writes p l v lose s; rw [h]
@[simp] theorem pinChange_draws : (pinChange p l v lose s).draws = s.draws := by
  obtain ⟨_, _, _, h⟩ := pinChange_writes p l v lose s; rw [h]

end

/-! ### One instruction -/

/-- What running an instruction in state s can leave behind: a disabled step leaves s, a command that reads or is refused
writes the response alone (60_exceptions.md R180), and the others do what the table of writers says (10_state.md R34). -/
inductive Effect (s : State) : Instr → State → Prop
  | kept {i : Instr} (hi : i.agent ≠ .host) : Effect s i s
  | replied {i : Instr} (hi : i.agent = .host) (r : Rsp) : Effect s i { s with rsp := some r }
  | constructed (la lb : LineIdx) (p : Bool) (imm : BitVec 16) (h : s.enc = none)
      (ha : argsOk Config.numLines la lb = true) :
      Effect s (.construct la lb p imm)
        { s with
          enc := some
            { selA := la, selB := lb, pull := p, lineA := s.pin la, lineB := s.pin lb,
              phase := phaseOf (s.pin la) (s.pin lb), prevPhase := phaseOf (s.pin la) (s.pin lb),
              count := 0, spr := imm, invCount := 0, lastClass := .nomove },
          pendA := false, pendB := false, dreqA := false, dreqB := false, rsp := some ⟨.ok, 0⟩ }
  | reseeded {e : Encoder} (h : s.enc = some e) :
      Effect s .reset { s with enc := some (e.seed (s.pin e.selA) (s.pin e.selB)), rsp := some ⟨.ok, 0⟩ }
  | sprSet {e : Encoder} (h : s.enc = some e) (n : BitVec 16) :
      Effect s (.setSpr n) { s with enc := some { e with spr := n }, rsp := some ⟨.ok, 0⟩ }
  | tornDown {e : Encoder} (h : s.enc = some e) :
      Effect s .detach
        { s with enc := none, pendA := false, pendB := false, dreqA := false, dreqB := false, rsp := some ⟨.ok, 0⟩ }
  | notified {e : Encoder} (h : s.enc = some e) (x : Line) : Effect s (notifyOf x) (s.setPend true x)
  | sampled {e : Encoder} (h : s.enc = some e) (x : Line) (hp : s.pend x = true) :
      Effect s (sampleOf x)
        { (s.setPend false x).setDreq true x with enc := some (e.setLevel (s.pin (e.sel x)) x) }
  | decoded {e : Encoder} (h : s.enc = some e) (x : Line) (hd : s.dreq x = true) :
      Effect s (decodeOf x) { s.setDreq false x with enc := some (transition e) }
  | driven {e : Encoder} (h : s.enc = some e) (x : Line) (v : Bool) :
      Effect s (pinOf v x) (pinChange Config.params (e.sel x) v false s)

theorem Effect.ofRespond (s : State) {i : Instr} (hi : i.agent = .host) (d : Data) : Effect s i (s.respond d) :=
  .replied hi _

theorem Effect.ofRaise (s : State) {i : Instr} (hi : i.agent = .host) (st : Status) : Effect s i (s.raise st) :=
  .replied hi _

/-- A command that needs att = 1 is refused, or does what it does to the encoder. -/
theorem Effect.ofWhileAttached {s : State} {i : Instr} (hi : i.agent = .host) {f : Encoder → State}
    (hf : ∀ e, s.enc = some e → Effect s i (f e)) : Effect s i (s.whileAttached f) := by
  cases h : s.enc with
  | none => rw [State.whileAttached_none h]; exact .ofRaise s hi _
  | some e => rw [State.whileAttached_some h]; exact hf e h

theorem Effect.ofAnswer (s : State) {i : Instr} (hi : i.agent = .host) (f : Encoder → Data) :
    Effect s i (s.answer f) :=
  .ofWhileAttached hi fun _ _ => .ofRespond s hi _

theorem effect_attach (la lb : LineIdx) (p : Bool) (imm : BitVec 16) (s : State) :
    Effect s (.construct la lb p imm) (attach Config.params la lb p imm s) := by
  obtain ⟨-, h⟩ | ⟨-, -, h⟩ | ⟨hs, ha, h⟩ := attach_cases Config.params la lb p imm s
  · rw [h]; exact .ofRaise s rfl _
  · rw [h]; exact .ofRaise s rfl _
  · rw [h]; exact .constructed la lb p imm hs ha

theorem effect_getStatus {s t : State} (h : exec .getStatus s = .next t) : Effect s .getStatus t := by
  obtain hs | ⟨e, hs⟩ := s.enc.eq_none_or_eq_some
  · rw [exec_getStatus_none hs] at h; cases h; exact .ofRespond s rfl _
  · rw [exec_getStatus_some hs] at h; cases h; exact .ofRespond s rfl _

theorem effect_notifyStep (x : Line) (s : State) : Effect s (notifyOf x) (notifyStep Config.params x s) := by
  rw [notifyStep_params]
  cases h : s.enc with
  | none => simpa [State.att, h] using Effect.kept (s := s) (notifyOf_agent_ne_host x)
  | some e => simpa [State.att, h] using Effect.notified h x

theorem effect_sampleStep (x : Line) (s : State) : Effect s (sampleOf x) (sampleStep x s) := by
  obtain ⟨-, h⟩ | ⟨e, he, hp, h⟩ := sampleStep_cases x s
  · rw [h]; exact .kept (sampleOf_agent_ne_host x)
  · rw [h]; exact .sampled he x hp

theorem effect_decodeStep (x : Line) (s : State) : Effect s (decodeOf x) (decodeStep x s) := by
  obtain ⟨-, h⟩ | ⟨e, he, hd, h⟩ := decodeStep_cases x s
  · rw [h]; exact .kept (by simp)
  · rw [h]; exact .decoded he x hd

theorem effect_pinLineStep (x : Line) (v : Bool) (s : State) :
    Effect s (pinOf v x) (pinLineStep Config.params x v s) := by
  cases h : s.enc with
  | none => rw [pinLineStep_none h]; exact .kept (by simp)
  | some e => rw [pinLineStep_some h, pinStep_params]; exact .driven h x v

/-- Every run of an instruction is one of the effects. -/
theorem effect_of_exec {i : Instr} {s t : State} (h : exec i s = .next t) : Effect s i t := by
  cases i with
  | construct la lb p imm => cases h; exact effect_attach la lb p imm s
  | reset => cases h; exact .ofWhileAttached rfl fun _ he => .reseeded he
  | setSpr n => cases h; exact .ofWhileAttached rfl fun _ he => .sprSet he n
  | getSpr | getCount | getTurns | getInvalid => cases h; exact .ofAnswer s rfl _
  | getStatus => exact effect_getStatus h
  | detach => cases h; exact .ofWhileAttached rfl fun _ he => .tornDown he
  | notifyA => cases h; exact effect_notifyStep .a s
  | notifyB => cases h; exact effect_notifyStep .b s
  | sampleA => cases h; exact effect_sampleStep .a s
  | sampleB => cases h; exact effect_sampleStep .b s
  | decodeA => cases h; exact effect_decodeStep .a s
  | decodeB => cases h; exact effect_decodeStep .b s
  | pinA v => cases h; exact effect_pinLineStep .a v s
  | pinB v => cases h; exact effect_pinLineStep .b v s

/-! ### One step of the machine -/

/-- A code runs the instruction it decodes to, or, an illegal word, answers ERR_ILLEGAL (30_encoding.md R74). -/
theorem runCode_cases {c : Code} {s t : State} (h : runCode c s = .next t) :
    (∃ i, decode c = .ok i ∧ exec i s = .next t) ∨ t = s.raise .errIllegal := by
  unfold runCode at h
  cases hd : decode c with
  | ok i => rw [hd] at h; exact .inl ⟨i, rfl, h⟩
  | rejected r =>
    rw [hd] at h
    cases c with
    | cmd w => cases h; exact .inr rfl
    | evt l => cases h

/-- PIN l, v that answers a next state drives an existing line. -/
theorem execPin_eq_next {l : LineIdx} {v : Bool} {s t : State} (h : execPin l v s = .next t) :
    l.toNat < Config.numLines ∧ t = pinChange Config.params l v false s := by
  unfold execPin pinOnLine at h
  split at h
  · next hl => cases h; exact ⟨hl, pinStep_params l v s⟩
  · cases h

/-- An idle machine takes one of the notifier and decoder steps that are enabled, or stays as it is. -/
theorem drain_cases {s t : State} (h : drain s = .next t) :
    (∃ i ∈ pendingSteps s, exec i { s with draws := s.draws + 1 } = .next t) ∨ (pendingSteps s = [] ∧ t = s) := by
  unfold drain at h
  obtain ⟨hn, hc⟩ | ⟨i, hi, hc⟩ := choose_cases (pendingSteps s) (Config.pickStep s.draws)
  · rw [hc] at h; cases h; exact .inr ⟨hn, rfl⟩
  · rw [hc] at h; exact .inl ⟨i, hi, h⟩

/-- A step that answers a next state runs the instruction of the oldest scheduled code, refuses its illegal word, drives
the line of a scheduled PIN, or, where nothing is scheduled, drains or stays. -/
theorem step_cases {s t : State} (h : step s = .next t) :
    (∃ c rest i, s.inbox = .code c :: rest ∧ decode c = .ok i ∧ exec i { s with inbox := rest } = .next t) ∨
    (∃ c rest, s.inbox = .code c :: rest ∧ t = State.raise { s with inbox := rest } .errIllegal) ∨
    (∃ l v rest, s.inbox = .pin l v :: rest ∧ l.toNat < Config.numLines ∧
      t = pinChange Config.params l v false { s with inbox := rest }) ∨
    (∃ i ∈ pendingSteps s, s.inbox = [] ∧ exec i { s with draws := s.draws + 1 } = .next t) ∨
    (s.inbox = [] ∧ pendingSteps s = [] ∧ t = s) := by
  cases hb : s.inbox with
  | nil =>
    rw [step_nil hb] at h
    obtain ⟨i, hi, he⟩ | ⟨hn, ht⟩ := drain_cases h
    · exact .inr (.inr (.inr (.inl ⟨i, hi, rfl, by rwa [hb] at he⟩)))
    · exact .inr (.inr (.inr (.inr ⟨rfl, hn, ht⟩)))
  | cons ev rest =>
    rw [step_cons hb] at h
    cases ev with
    | code c =>
      obtain ⟨i, hd, he⟩ | ht := runCode_cases h
      · exact .inl ⟨c, rest, i, rfl, hd, he⟩
      · exact .inr (.inl ⟨c, rest, rfl, ht⟩)
    | pin l v =>
      obtain ⟨hl, ht⟩ := execPin_eq_next h
      exact .inr (.inr (.inl ⟨l, v, rest, rfl, hl, ht⟩))

end Sys2Proof.Machine

/-! SUPPORT. The invariant of 10_state.md R40, and that every step keeps it. -/

namespace Sys2Proof.Machine

/-! ### The invariant, while detached and while attached -/

/-- While detached a state is consistent exactly when no flag is set. -/
theorem State.consistent_of_none {s : State} (h : s.enc = none) : s.consistent = s.quiescent := by
  simp [State.consistent, State.quiescent, h]

/-- While attached a state is consistent exactly when CONSTRUCT would accept its lines and the phase is in step or a
decode waits. -/
theorem State.consistent_of_some {s : State} {e : Encoder} (h : s.enc = some e) :
    s.consistent = (argsOk Config.numLines e.selA e.selB && (s.dreqA || s.dreqB || e.inStep)) := by
  simp [State.consistent, argsOk, h]

/-- A consistent attached state has the lines of a CONSTRUCT that was accepted. -/
theorem State.argsOk_of_consistent {s : State} {e : Encoder} (h : s.enc = some e) (hs : s.consistent = true) :
    argsOk Config.numLines e.selA e.selB = true := by
  rw [State.consistent_of_some h, Bool.and_eq_true] at hs
  exact hs.1

@[simp] theorem Encoder.inStep_seed (e : Encoder) (a b : Bool) : (e.seed a b).inStep = true := by
  simp [Encoder.inStep]

@[simp] theorem transition_inStep (e : Encoder) : (transition e).inStep = true := by
  simp [Encoder.inStep]

/-! ### The steps -/

/-- A PIN writes pins and pending flags, and a pending flag only while attached, where the invariant does not speak of
it. -/
theorem pinChange_keeps_consistent {s : State} (hs : s.consistent = true) (p : Params) (l : LineIdx) (v lose : Bool) :
    (pinChange p l v lose s).consistent = true := by
  cases h : s.enc with
  | none => rw [pinChange_none h]; exact hs
  | some e =>
    rw [State.consistent_of_some h] at hs
    rw [State.consistent_of_some ((pinChange_enc ..).trans h), pinChange_dreqA, pinChange_dreqB]
    exact hs

/-- No instruction breaks the invariant: a SAMPLE, which may leave the phase behind the lines, leaves a decode waiting, and
a DECODE brings the phase into step. -/
theorem Effect.keeps_consistent {i : Instr} {s t : State} (h : Effect s i t) (hs : s.consistent = true) :
    t.consistent = true := by
  cases h with
  | kept => exact hs
  | replied => exact hs
  | constructed la lb p imm _ ha =>
    rw [State.consistent_of_some rfl, ha]
    simp [Encoder.inStep]
  | reseeded h =>
    rw [State.consistent_of_some rfl, Encoder.seed_selA, Encoder.seed_selB, State.argsOk_of_consistent h hs,
      Encoder.inStep_seed]
    simp
  | sprSet h n => rw [State.consistent_of_some h] at hs; rw [State.consistent_of_some rfl]; exact hs
  | tornDown => rfl
  | @notified e h x =>
    rw [State.consistent_of_some h] at hs
    rw [State.consistent_of_some (e := e) (by rw [State.setPend_enc, h])]
    cases x <;> exact hs
  | sampled h x _ =>
    have hl := State.argsOk_of_consistent h hs
    rw [State.consistent_of_some rfl]
    cases x <;> simp [hl]
  | decoded h x _ =>
    rw [State.consistent_of_some rfl, transition_selA, transition_selB, State.argsOk_of_consistent h hs,
      transition_inStep]
    simp
  | driven h x v => exact pinChange_keeps_consistent hs _ _ _ _

/-- Settles O51, by what a step can do; taking an event off the inbox or making a draw touches nothing the invariant
speaks of. -/
theorem stepKeepsConsistent : Obligations.StepKeepsConsistent := by
  intro s t hs h
  obtain ⟨c, rest, i, -, -, he⟩ | ⟨c, rest, -, rfl⟩ | ⟨l, v, rest, -, -, rfl⟩ | ⟨i, -, -, he⟩ | ⟨-, -, rfl⟩ :=
    step_cases h
  · exact (effect_of_exec he).keeps_consistent hs
  · exact hs
  · exact pinChange_keeps_consistent (s := { s with inbox := rest }) hs _ _ _ _
  · exact (effect_of_exec he).keeps_consistent hs
  · exact hs

end Sys2Proof.Machine

/-! SUPPORT. The table of writers (10_state.md R34) and the moves of count (R27). -/

namespace Sys2Proof.Machine

/-! ### The flags of one line under an update of another field -/

theorem State.pend_withEnc (s : State) (e : Option Encoder) (x : Line) :
    ({ s with enc := e } : State).pend x = s.pend x := by
  cases x <;> rfl

theorem State.dreq_withEnc (s : State) (e : Option Encoder) (x : Line) :
    ({ s with enc := e } : State).dreq x = s.dreq x := by
  cases x <;> rfl

theorem State.pend_setPend_ne (s : State) (v : Bool) {x y : Line} (h : x ≠ y) :
    (s.setPend v x).pend y = s.pend y := by
  cases x with
  | a => cases y with
    | a => exact absurd rfl h
    | b => rfl
  | b => cases y with
    | a => rfl
    | b => exact absurd rfl h

theorem State.dreq_setDreq_ne (s : State) (v : Bool) {x y : Line} (h : x ≠ y) :
    (s.setDreq v x).dreq y = s.dreq y := by
  cases x with
  | a => cases y with
    | a => exact absurd rfl h
    | b => rfl
  | b => cases y with
    | a => rfl
    | b => exact absurd rfl h

@[simp] theorem pinChange_dreq (p : Params) (l : LineIdx) (v lose : Bool) (s : State) (x : Line) :
    (pinChange p l v lose s).dreq x = s.dreq x := by
  cases x with
  | a => exact pinChange_dreqA p l v lose s
  | b => exact pinChange_dreqB p l v lose s

/-! ### Who writes what, by the effects of an instruction -/

section
variable {i : Instr} {s t : State}

theorem Effect.writes_att (h : Effect s i t) (hw : t.att ≠ s.att) :
    (∃ la lb p imm, i = .construct la lb p imm) ∨ i = .detach := by
  cases h with
  | constructed => exact .inl ⟨_, _, _, _, rfl⟩
  | tornDown => exact .inr rfl
  | kept | replied => exact absurd rfl hw
  | reseeded h | sprSet h | sampled h | decoded h => exact absurd (by simp [State.att, h]) hw
  | notified | driven => exact absurd (by simp [State.att]) hw

theorem Effect.writes_pend (h : Effect s i t) (x : Line) (hw : t.pend x ≠ s.pend x) :
    i = notifyOf x ∨ i = sampleOf x ∨ i.agent = .env ∨ i = .detach ∨ ∃ la lb p imm, i = .construct la lb p imm := by
  cases h with
  | constructed => exact .inr (.inr (.inr (.inr ⟨_, _, _, _, rfl⟩)))
  | tornDown => exact .inr (.inr (.inr (.inl rfl)))
  | driven _ y v => exact .inr (.inr (.inl (pinOf_agent v y)))
  | notified _ y =>
    obtain rfl | hy := eq_or_ne y x
    · exact .inl rfl
    · exact absurd (State.pend_setPend_ne s true hy) hw
  | sampled _ y _ =>
    obtain rfl | hy := eq_or_ne y x
    · exact .inr (.inl rfl)
    · rw [State.pend_withEnc, State.pend_setDreq, State.pend_setPend_ne s false hy] at hw
      exact absurd rfl hw
  | decoded => rw [State.pend_withEnc, State.pend_setDreq] at hw; exact absurd rfl hw
  | kept => exact absurd rfl hw
  | replied | reseeded | sprSet => cases x <;> exact absurd rfl hw

theorem Effect.writes_dreq (h : Effect s i t) (x : Line) (hw : t.dreq x ≠ s.dreq x) :
    i = sampleOf x ∨ i = decodeOf x ∨ i = .detach ∨ ∃ la lb p imm, i = .construct la lb p imm := by
  cases h with
  | constructed => exact .inr (.inr (.inr ⟨_, _, _, _, rfl⟩))
  | tornDown => exact .inr (.inr (.inl rfl))
  | sampled _ y _ =>
    obtain rfl | hy := eq_or_ne y x
    · exact .inl rfl
    · rw [State.dreq_withEnc, State.dreq_setDreq_ne _ true hy, State.dreq_setPend] at hw
      exact absurd rfl hw
  | decoded _ y _ =>
    obtain rfl | hy := eq_or_ne y x
    · exact .inr (.inl rfl)
    · rw [State.dreq_withEnc, State.dreq_setDreq_ne s false hy] at hw
      exact absurd rfl hw
  | notified => exact absurd (State.dreq_setPend ..) hw
  | driven => exact absurd (pinChange_dreq ..) hw
  | kept => exact absurd rfl hw
  | replied | reseeded | sprSet => cases x <;> exact absurd rfl hw

theorem Effect.writes_pins (h : Effect s i t) (hw : t.pins ≠ s.pins) : i.agent = .env := by
  cases h with
  | driven _ x v => exact pinOf_agent v x
  | kept | replied | constructed | reseeded | sprSet | tornDown => exact absurd rfl hw
  | notified _ x | sampled _ x | decoded _ x => cases x <;> exact absurd rfl hw

theorem Effect.writes_rsp (h : Effect s i t) (hw : t.rsp ≠ s.rsp) : i.agent = .host := by
  cases h with
  | replied hi => exact hi
  | constructed | reseeded | sprSet | tornDown => rfl
  | kept => exact absurd rfl hw
  | notified _ x | sampled _ x | decoded _ x => cases x <;> exact absurd rfl hw
  | driven => exact absurd (pinChange_rsp ..) hw

theorem Effect.keeps_inbox_draws (h : Effect s i t) : t.inbox = s.inbox ∧ t.draws = s.draws := by
  cases h with
  | kept | replied | constructed | reseeded | sprSet | tornDown => exact ⟨rfl, rfl⟩
  | notified _ x | sampled _ x | decoded _ x => cases x <;> exact ⟨rfl, rfl⟩
  | driven => exact ⟨pinChange_inbox .., pinChange_draws ..⟩

/-- What becomes of the encoder while attached before and after: nothing, or the work of RESET, SET_SPR, SAMPLE_X or
DECODE_X. -/
theorem Effect.enc_cases (h : Effect s i t) {e e' : Encoder} (hs : s.enc = some e) (ht : t.enc = some e') :
    e' = e ∨ (i = .reset ∧ e' = e.seed (s.pin e.selA) (s.pin e.selB)) ∨
    (∃ n, i = .setSpr n ∧ e' = { e with spr := n }) ∨
    (∃ x, i = sampleOf x ∧ e' = e.setLevel (s.pin (e.sel x)) x) ∨
    (∃ x, i = decodeOf x ∧ e' = transition e) := by
  cases h with
  | kept => exact .inl (Option.some.inj (ht.symm.trans hs))
  | replied => exact .inl (Option.some.inj (ht.symm.trans hs))
  | notified _ x => exact .inl (Option.some.inj (ht.symm.trans ((s.setPend_enc true x).trans hs)))
  | driven => exact .inl (Option.some.inj (ht.symm.trans ((pinChange_enc ..).trans hs)))
  | constructed _ _ _ _ h => cases h.symm.trans hs
  | tornDown => cases ht
  | reseeded h => cases h.symm.trans hs; cases ht; exact .inr (.inl ⟨rfl, rfl⟩)
  | sprSet h n => cases h.symm.trans hs; cases ht; exact .inr (.inr (.inl ⟨n, rfl, rfl⟩))
  | sampled h x => cases h.symm.trans hs; cases ht; exact .inr (.inr (.inr (.inl ⟨x, rfl, rfl⟩)))
  | decoded h x => cases h.symm.trans hs; cases ht; exact .inr (.inr (.inr (.inr ⟨x, rfl, rfl⟩)))

/-- Only a CONSTRUCT attaches, and it sets count to 0. -/
theorem Effect.attaches (h : Effect s i t) {e' : Encoder} (hs : s.enc = none) (ht : t.enc = some e') :
    (∃ la lb p imm, i = .construct la lb p imm) ∧ e'.count = 0 := by
  cases h with
  | constructed => cases ht; exact ⟨⟨_, _, _, _, rfl⟩, rfl⟩
  | kept | replied => cases hs.symm.trans ht
  | reseeded h | sprSet h | tornDown h | notified h | sampled h | decoded h | driven h => cases hs.symm.trans h

end

/-- Settles O48: each clause is a lemma over the effects of an instruction, the last one by what becomes of the
encoder. -/
theorem onlyTheListedStepsWriteAField : Obligations.OnlyTheListedStepsWriteAField := by
  intro i s t hexec
  have h := effect_of_exec hexec
  obtain ⟨hinbox, hdraws⟩ := h.keeps_inbox_draws
  refine ⟨h.writes_att, h.writes_pend .a, h.writes_pend .b, h.writes_dreq .a, h.writes_dreq .b, h.writes_pins,
    h.writes_rsp, hinbox, hdraws, fun e e' hs ht => ?_⟩
  obtain rfl | ⟨rfl, rfl⟩ | ⟨n, rfl, rfl⟩ | ⟨x, rfl, rfl⟩ | ⟨x, rfl, rfl⟩ := h.enc_cases hs ht
  · simp
  · simp
  · simp
  · cases x <;> simp [sampleOf]
  · cases x <;> simp [decodeOf]

/-- A transition that changes count is forward and adds 1 or is reverse and subtracts 1 (41_decoder.md R125). -/
theorem countAfter_cases {c : StepClass} {n : BitVec 64} (h : countAfter c n ≠ n) :
    c = .fwd ∧ countAfter c n = n + 1 ∨ c = .rev ∧ countAfter c n = n - 1 := by
  cases c with
  | fwd => exact .inl ⟨rfl, countAfter_fwd n⟩
  | rev => exact .inr ⟨rfl, countAfter_rev n⟩
  | nomove | invalid => exact absurd rfl h

/-- Settles O49: of what can become of the encoder only RESET and a transition touch count, and only a CONSTRUCT
attaches. -/
theorem countMovesInUnitSteps : Obligations.CountMovesInUnitSteps := by
  intro i s t e' hexec ht
  have h := effect_of_exec hexec
  refine ⟨fun e hs hne => ?_, fun hs => h.attaches hs ht⟩
  obtain rfl | ⟨rfl, rfl⟩ | ⟨n, rfl, rfl⟩ | ⟨x, rfl, rfl⟩ | ⟨x, rfl, rfl⟩ := h.enc_cases hs ht
  · exact absurd rfl hne
  · exact .inl ⟨rfl, rfl⟩
  · exact absurd rfl hne
  · cases x <;> exact absurd rfl hne
  · exact .inr ⟨by cases x <;> simp [decodeOf], countAfter_cases hne⟩

end Sys2Proof.Machine

/-! SUPPORT. Illegal command words, and the STATUS word (10_state.md R39). -/

namespace Sys2Proof.Machine

/-! ### Illegal command words -/

/-- A CMD word that decodes to no command answers ERR_ILLEGAL (42_commands.md R151). -/
theorem runEvent_cmd_illegal {w : CmdWord} (h : ∀ i, decodeCmd w ≠ .ok i) (s : State) :
    runEvent (.code (.cmd w)) s = .next (s.raise .errIllegal) := by
  cases hd : decodeCmd w with
  | ok i => exact absurd hd (h i)
  | rejected r => simp [runEvent, runCode, decode, hd, execIllegal]

/-- A word of a command without operands whose low 28 bits are not all 0 is illegal (30_encoding.md R73, R74). -/
theorem decodeCmd_ne_ok_of_low28 {w : CmdWord} (h1 : w.extractLsb' 28 4 ≠ 1#4) (h3 : w.extractLsb' 28 4 ≠ 3#4)
    (h0 : w.extractLsb' 0 28 ≠ 0#28) (i : Instr) : decodeCmd w ≠ .ok i := by
  intro hd
  obtain ⟨h, -⟩ | ⟨h, -⟩ | ⟨h, -⟩ := decodeCmd_ok hd
  · exact h1 h
  · exact h3 h
  · exact h0 h

/-- A field of four bits is 0 exactly when each bit is. -/
theorem extractLsb'_four_eq_zero_iff {w : Nat} (d : BitVec w) (k : Nat) :
    d.extractLsb' k 4 = 0#4 ↔
      d.getLsbD k = false ∧ d.getLsbD (k + 1) = false ∧ d.getLsbD (k + 2) = false ∧ d.getLsbD (k + 3) = false := by
  constructor
  · intro h
    have hbit (j : Nat) (hj : j < 4) : d.getLsbD (k + j) = false := by
      simpa [hj] using congrArg (fun f : BitVec 4 => f.getLsbD j) h
    exact ⟨hbit 0 (by decide), hbit 1 (by decide), hbit 2 (by decide), hbit 3 (by decide)⟩
  · rintro ⟨h0, h1, h2, h3⟩
    apply BitVec.eq_of_getLsbD_eq
    intro j hj
    interval_cases j <;> simp [*]

/-! ### The fields of the STATUS word (10_state.md R39) -/

section
variable (s : State) (e : Encoder)

/-- The one-bit fields. -/
theorem statusWord_bits : (statusWord s e).getLsbD 0 = true ∧ (statusWord s e).getLsbD 1 = e.lineA ∧
    (statusWord s e).getLsbD 2 = e.lineB ∧ (statusWord s e).getLsbD 9 = s.pendA ∧
    (statusWord s e).getLsbD 10 = s.pendB ∧ (statusWord s e).getLsbD 11 = s.dreqA ∧
    (statusWord s e).getLsbD 12 = s.dreqB ∧ (statusWord s e).getLsbD 13 = e.pull := by
  simp only [statusWord, zext64, BitVec.getLsbD_setWidth, BitVec.getLsbD_append, BitVec.getLsbD_ofBool]
  exact ⟨rfl, rfl, rfl, rfl, rfl, rfl, rfl, rfl⟩

/-- The wider fields, bits 15:14 being reserved. -/
theorem statusWord_fields :
    (statusWord s e).extractLsb' 3 2 = e.phase ∧ (statusWord s e).extractLsb' 5 2 = e.prevPhase ∧
    (statusWord s e).extractLsb' 7 2 = e.lastClass.code ∧ (statusWord s e).extractLsb' 14 2 = 0#2 ∧
    (statusWord s e).extractLsb' 16 4 = e.selA ∧ (statusWord s e).extractLsb' 20 4 = e.selB := by
  simp (disch := decide) only [statusWord, zext64, BitVec.extractLsb'_setWidth_of_le,
    BitVec.extractLsb'_append_eq_of_le, BitVec.extractLsb'_append_eq_of_add_le]
  have whole {n : Nat} (x : BitVec n) : x.extractLsb' 0 n = x := BitVec.extractLsb'_eq_self
  exact ⟨whole _, whole _, whole _, whole _, whole _, whole _⟩

/-- The bits above the fields are reserved. -/
theorem statusWord_high : (statusWord s e).extractLsb' 24 40 = 0#40 := by
  apply BitVec.eq_of_getLsbD_eq
  intro i _
  rw [BitVec.getLsbD_extractLsb', statusWord, zext64, BitVec.getLsbD_setWidth,
    BitVec.getLsbD_of_ge _ (24 + i) (Nat.le_add_right 24 i), BitVec.getLsbD_zero, Bool.and_false, Bool.and_false]

/-- STATUS[12:9] = 0 is quiescence (00_scope.md R12). -/
theorem statusWord_quiescent : (statusWord s e).extractLsb' 9 4 = 0#4 ↔ s.quiescent = true := by
  obtain ⟨-, -, -, hpa, hpb, hda, hdb, -⟩ := statusWord_bits s e
  rw [extractLsb'_four_eq_zero_iff, hpa, hpb, hda, hdb]
  simp [State.quiescent, and_assoc]

end

/-- Settles O24: the STATUS word field by field, and OP 8 with any other bit set is illegal. -/
theorem getStatusAnswersStatusWord : Obligations.GetStatusAnswersStatusWord := by
  refine ⟨by decide, fun w s hop hlow => ?_, fun s hs => ?_, fun s e hs => ⟨statusWord s e, ?_, ?_⟩⟩
  · exact runEvent_cmd_illegal (decodeCmd_ne_ok_of_low28 (by simp [hop]) (by simp [hop]) hlow) s
  · exact exec_getStatus_none hs
  · exact exec_getStatus_some hs
  · obtain ⟨hatt, hla, hlb, hpa, hpb, hda, hdb, hpull⟩ := statusWord_bits s e
    obtain ⟨hphase, hprev, hclass, hrsv, hsa, hsb⟩ := statusWord_fields s e
    exact ⟨hatt, hla, hlb, hphase, hprev, hclass, hpa, hpb, hda, hdb, hpull, hrsv, hsa, hsb, statusWord_high s e,
      statusWord_quiescent s e⟩

end Sys2Proof.Machine

/-! SUPPORT. The bytes of a code, and the one step a scheduled event or an idle machine takes (20_memory.md R53, R57,
R58). -/

namespace Sys2Proof.Machine

/-! ### The bytes of a code (20_memory.md R53) -/

/-- The four bytes of a CMD word, byte 3 highest, are the word. -/
theorem cmdBytes_append (w : CmdWord) :
    w.extractLsb' 24 8 ++ (w.extractLsb' 16 8 ++ (w.extractLsb' 8 8 ++ w.extractLsb' 0 8)) = w := by
  rw [BitVec.extractLsb'_append_extractLsb'_eq_extractLsb' (show 8 = 0 + 8 from rfl),
    BitVec.extractLsb'_append_extractLsb'_eq_extractLsb' (show 16 = 0 + (8 + 8) from rfl),
    BitVec.extractLsb'_append_extractLsb'_eq_extractLsb' (show 24 = 0 + (8 + (8 + 8)) from rfl)]
  exact BitVec.extractLsb'_eq_self

/-- The bytes of a code carry that code. -/
@[simp] theorem codeOfBytes_bytes (c : Code) : codeOfBytes c.bytes = some c := by
  cases c with
  | cmd w => exact congrArg (fun v => some (Code.cmd v)) (cmdBytes_append w)
  | evt c => rfl

/-- A decoder given a code's bytes reads that code. -/
theorem decodeBytes_bytes (c : Code) : decodeBytes c.bytes = decode c := by
  rw [decodeBytes, codeOfBytes_bytes]

/-- Settles O6: the bytes by their index, and the byte decoder by the word its bytes make up again. -/
theorem transportIsLittleEndian : Obligations.TransportIsLittleEndian := by
  refine ⟨fun w k hk => ?_, fun d k hk => ?_, fun w => decodeBytes_bytes (.cmd w)⟩
  · interval_cases k <;> rfl
  · interval_cases k <;> rfl

/-! ### A scheduled code -/

/-- A code that decodes to an instruction runs it. -/
theorem runCode_of_decode {c : Code} {i : Instr} (h : decode c = .ok i) (s : State) : runCode c s = exec i s := by
  simp [runCode, h]

/-- The instruction of a row's word is the one its code decodes to. -/
theorem decodeTableWord_eq_some {nbits w : Nat} {i : Instr} (h : decodeTableWord nbits w = some i) :
    ∃ c, codeOfTableWord nbits w = some c ∧ decode c = .ok i := by
  unfold decodeTableWord at h
  cases hc : codeOfTableWord nbits w with
  | none => simp [hc] at h
  | some c =>
    simp only [hc, decodeBytes_bytes] at h
    cases hd : decode c with
    | ok j => rw [hd] at h; cases h; exact ⟨c, rfl, hd⟩
    | rejected r => rw [hd] at h; cases h

/-- A row's word is scheduled as its code, before everything else. -/
theorem withFetchWord_of_code {nbits w : Nat} {c : Code} (h : codeOfTableWord nbits w = some c) (s : State) :
    s.withFetchWord nbits w = { s with inbox := .code c :: s.inbox } := by
  simp [State.withFetchWord, State.schedule, h]

/-- Settles O10: the oldest code is taken off the inbox and runs what it decodes to, and withFetchWord makes a row's
code the oldest. -/
theorem stepRunsDecodedInstruction : Obligations.StepRunsDecodedInstruction := by
  have hcode (s : State) (c : Code) (rest : List Event) (i : Instr) (hs : s.inbox = .code c :: rest)
      (hd : decode c = .ok i) : step s = exec i { s with inbox := rest } :=
    (step_cons hs).trans (runCode_of_decode hd _)
  refine ⟨hcode, fun s nbits w i h => ?_⟩
  obtain ⟨c, hc, hd⟩ := decodeTableWord_eq_some h
  rw [withFetchWord_of_code hc]
  exact hcode _ c s.inbox i rfl hd

/-! ### What is no step -/

/-- Every code that is none of the ten labels is rejected (30_encoding.md R78), by the 256 codes. -/
theorem decodeEvt_of_not_mem : ∀ c : EvtCode, c ∉ evtLabels → decodeEvt c = .rejected .notALabel := by
  decide

/-- PIN on a line that does not exist faults. -/
theorem pinOnLine_of_le {p : Params} {l : LineIdx} (h : p.numLines ≤ l.toNat) (v : Bool) (s : State) :
    pinOnLine p l v s = .fault (.noSuchLine l) := if_neg (Nat.not_lt.mpr h)

/-- Settles O14: a scheduled PIN is run as PIN on this hardware's lines, and a code that is rejected is refused. -/
theorem nonStepsStopByName : Obligations.NonStepsStopByName := by
  refine ⟨fun s l v rest hs => step_cons hs, fun p s l v h => pinOnLine_of_le h v s, fun s c rest hs hc => ?_⟩
  rw [step_cons hs]
  simp [runEvent, runCode, decode, decodeEvt_of_not_mem c hc]

/-! ### An idle machine -/

/-- An idle machine runs a pending step, a draw made, or there is none and it stays. -/
theorem drain_eq (s : State) :
    (∃ i ∈ pendingSteps s, drain s = exec i { s with draws := s.draws + 1 }) ∨
    (pendingSteps s = [] ∧ drain s = .next s) := by
  obtain ⟨hn, hc⟩ | ⟨i, hi, hc⟩ := choose_cases (pendingSteps s) (Config.pickStep s.draws)
  · exact .inr ⟨hn, by rw [drain, hc]⟩
  · exact .inl ⟨i, hi, by rw [drain, hc]⟩

/-- Settles O11: the pending steps are the enabled ones of the four. -/
theorem idleStepTakesAPendingStep : Obligations.IdleStepTakesAPendingStep := by
  intro s hs
  rw [step_nil hs]
  obtain ⟨i, hi, hd⟩ | ⟨hn, hd⟩ := drain_eq s
  · obtain ⟨hmem, hen⟩ := List.mem_filter.mp hi
    exact .inl ⟨i, hmem, hen, hd⟩
  · exact .inr ⟨fun i hi => Bool.eq_false_of_not_eq_true (List.filter_eq_nil_iff.mp hn i hi), hd⟩

end Sys2Proof.Machine

/-! SUPPORT. Steps that repeat, and steps that commute (20_memory.md R56, R59, R63). -/

namespace Sys2Proof.Machine

/-! ### Commands run again (20_memory.md R56) -/

/-- A command that reads writes the response alone, and run again it answers the same. -/
theorem State.answer_twice (s : State) (f : Encoder → Data) :
    ∃ r, s.answer f = { s with rsp := some r } ∧
      State.answer { s with rsp := some r } f = { s with rsp := some r } := by
  obtain h | ⟨e, h⟩ := s.enc.eq_none_or_eq_some
  · exact ⟨⟨.errState, 0⟩, State.whileAttached_none h _, State.whileAttached_none h _⟩
  · exact ⟨⟨.ok, f e⟩, State.whileAttached_some h _, State.whileAttached_some h _⟩

/-- An instruction that is an `answer` repeats its response. -/
theorem exec_answer_twice {i : Instr} {f : Encoder → Data} (hi : ∀ s, exec i s = .next (s.answer f)) (s : State) :
    ∃ r, exec i s = .next { s with rsp := some r } ∧
      exec i { s with rsp := some r } = .next { s with rsp := some r } := by
  obtain ⟨r, h1, h2⟩ := s.answer_twice f
  exact ⟨r, by rw [hi, h1], by rw [hi, h2]⟩

/-- GET_STATUS, allowed while detached too, repeats its response. -/
theorem exec_getStatus_twice (s : State) :
    ∃ r, exec .getStatus s = .next { s with rsp := some r } ∧
      exec .getStatus { s with rsp := some r } = .next { s with rsp := some r } := by
  obtain h | ⟨e, h⟩ := s.enc.eq_none_or_eq_some
  · exact ⟨⟨.ok, 0⟩, exec_getStatus_none h, exec_getStatus_none h⟩
  · exact ⟨⟨.ok, statusWord s e⟩, exec_getStatus_some h, exec_getStatus_some h⟩

/-- Seeding writes neither the selected lines nor the pins it samples, so a second RESET finds what the first left. -/
theorem reseed_reseed (s : State) : reseed (reseed s) = reseed s := by
  obtain h | ⟨e, h⟩ := s.enc.eq_none_or_eq_some
  · rw [reseed, reseed, State.whileAttached_none h]
    exact State.whileAttached_none h _
  · rw [reseed, reseed, State.whileAttached_some h]
    exact State.whileAttached_some (e := e.seed (s.pin e.selA) (s.pin e.selB)) rfl _

/-- Settles O27: four reads are an `answer`, GET_STATUS has its own two cases, and RESET re-seeds. -/
theorem readsAreIdempotent : Obligations.ReadsAreIdempotent := by
  refine ⟨fun i hi s => ?_, fun s t h => ?_⟩
  · simp only [List.mem_cons, List.not_mem_nil, or_false] at hi
    obtain rfl | rfl | rfl | rfl | rfl := hi
    iterate 4 exact exec_answer_twice (fun _ => rfl) s
    exact exec_getStatus_twice s
  · cases h
    exact congrArg Host.Outcome.next (reseed_reseed s)

/-! ### Several instructions -/

/-- A sequence goes on from the state its first instruction leaves. -/
theorem execAll_cons {i : Instr} {s t : State} (h : exec i s = .next t) (is : List Instr) :
    execAll (i :: is) s = execAll is t := by
  simp [execAll, h]

/-! ### The two lines' samples and decodes (20_memory.md R59) -/

/-- SAMPLE_A while attached, as one update of line A's own fields. -/
theorem sampleStep_a_some {s : State} {e : Encoder} (h : s.enc = some e) :
    sampleStep .a s =
      { s with enc := some { e with lineA := if s.pendA then s.pin e.selA else e.lineA },
               pendA := false, dreqA := s.pendA || s.dreqA } := by
  cases s with
  | mk enc pendA pendB => cases h; cases pendA <;> rfl

/-- SAMPLE_B while attached, as one update of line B's own fields. -/
theorem sampleStep_b_some {s : State} {e : Encoder} (h : s.enc = some e) :
    sampleStep .b s =
      { s with enc := some { e with lineB := if s.pendB then s.pin e.selB else e.lineB },
               pendB := false, dreqB := s.pendB || s.dreqB } := by
  cases s with
  | mk enc pendA pendB => cases h; cases pendB <;> rfl

/-- The samples of the two lines read and write fields of their own lines only. -/
theorem sampleStep_comm (s : State) : sampleStep .b (sampleStep .a s) = sampleStep .a (sampleStep .b s) := by
  obtain h | ⟨e, h⟩ := s.enc.eq_none_or_eq_some
  · have hkeep (x : Line) : sampleStep x s = s := sampleStep_disabled ((s.att_and_eq_false_iff _).mpr (.inl h))
    simp only [hkeep]
  · rw [sampleStep_a_some h, sampleStep_b_some h, sampleStep_b_some rfl, sampleStep_a_some rfl]
    rfl

/-- DECODE_X while attached with its request set. -/
theorem decodeStep_some {s : State} {e : Encoder} {x : Line} (h : s.enc = some e) (hd : s.dreq x = true) :
    decodeStep x s = { s.setDreq false x with enc := some (transition e) } := by
  simp [decodeStep, h, hd]

/-- With both requests set either order clears both and makes two transitions. -/
theorem decodeStep_comm {s : State} (ha : s.dreq .a = true) (hb : s.dreq .b = true) :
    decodeStep .b (decodeStep .a s) = decodeStep .a (decodeStep .b s) := by
  obtain h | ⟨e, h⟩ := s.enc.eq_none_or_eq_some
  · have hkeep (x : Line) : decodeStep x s = s := decodeStep_disabled ((s.att_and_eq_false_iff _).mpr (.inl h))
    simp only [hkeep]
  · calc decodeStep .b (decodeStep .a s)
        = decodeStep .b { s.setDreq false .a with enc := some (transition e) } := by rw [decodeStep_some h ha]
      _ = { s with enc := some (transition (transition e)), dreqA := false, dreqB := false } :=
          decodeStep_some rfl hb
      _ = decodeStep .a { s.setDreq false .b with enc := some (transition e) } := Eq.symm (decodeStep_some rfl ha)
      _ = decodeStep .a (decodeStep .b s) := by rw [decodeStep_some h hb]

/-- Settles O37: the steps of the two lines commute. -/
theorem orderOfTheLinesDoesNotMatter : Obligations.OrderOfTheLinesDoesNotMatter := by
  refine fun s => ⟨congrArg Host.Outcome.next (sampleStep_comm s), fun ha hb => ?_⟩
  exact congrArg Host.Outcome.next (decodeStep_comm ha hb)

/-! ### The count between a pin change and its decode (20_memory.md R63) -/

/-- PIN_X leaves the encoder as it is. -/
@[simp] theorem pinLineStep_enc (x : Line) (v : Bool) (s : State) :
    (pinLineStep Config.params x v s).enc = s.enc := by
  obtain h | ⟨e, h⟩ := s.enc.eq_none_or_eq_some
  · rw [pinLineStep_none h]
  · rw [pinLineStep_some h, pinStep_params, pinChange_enc]

/-- SAMPLE_X leaves count as it is. -/
theorem sampleStep_count {s : State} {e : Encoder} (h : s.enc = some e) (x : Line) :
    ∃ e', (sampleStep x s).enc = some e' ∧ e'.count = e.count := by
  obtain ⟨-, hs⟩ | ⟨e₁, he, -, hs⟩ := sampleStep_cases x s
  · exact ⟨e, by rw [hs, h], rfl⟩
  · cases h.symm.trans he
    exact ⟨_, by rw [hs], by cases x <;> rfl⟩

/-- GET_COUNT while attached. -/
theorem exec_getCount_some {s : State} {e : Encoder} (h : s.enc = some e) :
    exec .getCount s = .next (s.respond e.count) :=
  congrArg Host.Outcome.next (State.whileAttached_some h _)

/-- Settles O46: neither PIN_X nor SAMPLE_X touches the count that GET_COUNT answers. -/
theorem countLagsThePins : Obligations.CountLagsThePins := by
  intro s e x v he
  obtain ⟨e', he', hcount⟩ := sampleStep_count ((pinLineStep_enc x v s).trans he) x
  refine ⟨(sampleStep x (pinLineStep Config.params x v s)).respond e.count, ?_, State.respond_rsp _ _⟩
  rw [execAll_cons (exec_pinOf v x s), execAll_cons (exec_sampleOf x _), execAll_cons (exec_getCount_some he'), hcount]
  rfl

end Sys2Proof.Machine

/-! SUPPORT. Decoding and encoding are inverse to each other (30_encoding.md R71 to R75, R78). -/

namespace Sys2Proof.Machine

/-! ### A CMD word and its fields (30_encoding.md R71) -/

/-- A field within a field of zeros is zero. -/
theorem extractLsb'_eq_zero_of_within {w lo len : Nat} {x : BitVec w} (h : x.extractLsb' lo len = 0#len)
    (lo' len' : Nat) (hlo : lo ≤ lo') (hhi : lo' + len' ≤ lo + len) : x.extractLsb' lo' len' = 0#len' := by
  have hsub : x.extractLsb' lo' len' = (x.extractLsb' lo len).extractLsb' (lo' - lo) len' := by
    ext i hi
    have hin : lo' - lo + i < len := by omega
    have hpos : lo + (lo' - lo + i) = lo' + i := by omega
    simp [hin, hpos]
  rw [hsub, h, BitVec.extractLsb'_zero]

/-- A word whose RSV field is 0 is made of its other fields. -/
theorem cmdWord_of_fields {w : CmdWord} (hrsv : w.extractLsb' 17 3 = 0#3) :
    cmdWord (w.extractLsb' 28 4) (w.extractLsb' 24 4) (w.extractLsb' 20 4) (w.getLsbD 16) (w.extractLsb' 0 16) = w := by
  have hp : BitVec.ofBool (w.getLsbD 16) = w.extractLsb' 16 1 := by
    ext i hi
    simp [Nat.lt_one_iff.mp hi]
  rw [cmdWord, hp, ← hrsv, BitVec.extractLsb'_append_extractLsb'_eq_extractLsb' (show 16 = 0 + 16 from rfl),
    BitVec.extractLsb'_append_extractLsb'_eq_extractLsb' (show 17 = 0 + (1 + 16) from rfl),
    BitVec.extractLsb'_append_extractLsb'_eq_extractLsb' (show 20 = 0 + (3 + (1 + 16)) from rfl),
    BitVec.extractLsb'_append_extractLsb'_eq_extractLsb' (show 24 = 0 + (4 + (3 + (1 + 16))) from rfl),
    BitVec.extractLsb'_append_extractLsb'_eq_extractLsb' (show 28 = 0 + (4 + (4 + (3 + (1 + 16)))) from rfl)]
  exact BitVec.extractLsb'_eq_self

/-- A word with nothing between OP and IMM16 is made of these two. -/
theorem cmdWord_of_op_imm {w : CmdWord} (h : w.extractLsb' 16 12 = 0#12) :
    cmdWord (w.extractLsb' 28 4) 0#4 0#4 false (w.extractLsb' 0 16) = w := by
  have hla := extractLsb'_eq_zero_of_within h 24 4 (by decide) (by decide)
  have hlb := extractLsb'_eq_zero_of_within h 20 4 (by decide) (by decide)
  have hrsv := extractLsb'_eq_zero_of_within h 17 3 (by decide) (by decide)
  have hp : w.getLsbD 16 = false := by
    rw [BitVec.getLsbD_eq_extractLsb', extractLsb'_eq_zero_of_within h 16 1 (by decide) (by decide)]
    rfl
  calc cmdWord (w.extractLsb' 28 4) 0#4 0#4 false (w.extractLsb' 0 16)
      = cmdWord (w.extractLsb' 28 4) (w.extractLsb' 24 4) (w.extractLsb' 20 4) (w.getLsbD 16) (w.extractLsb' 0 16) := by
        rw [hla, hlb, hp]
    _ = w := cmdWord_of_fields hrsv

/-- A word with nothing but OP is made of it. -/
theorem cmdWord_of_op {w : CmdWord} (h : w.extractLsb' 0 28 = 0#28) :
    cmdWord (w.extractLsb' 28 4) 0#4 0#4 false 0#16 = w := by
  have himm := extractLsb'_eq_zero_of_within h 0 16 (by decide) (by decide)
  rw [← himm]
  exact cmdWord_of_op_imm (extractLsb'_eq_zero_of_within h 16 12 (by decide) (by decide))

/-- Between OP and IMM16 an assembled word without LA, LB and P holds zeros. -/
theorem cmdWord_middle (op : BitVec 4) (imm : BitVec 16) :
    (cmdWord op 0#4 0#4 false imm).extractLsb' 16 12 = 0#12 := by
  apply BitVec.eq_of_getLsbD_eq
  intro i hi
  rw [BitVec.getLsbD_extractLsb', cmdWord_getLsbD]
  have h : ¬ 16 + i < 16 ∧ 16 + i < 28 := by omega
  simp [h]

/-! ### The two commands with operands (30_encoding.md R73) -/

theorem decodeCmd_construct {w : CmdWord} (hop : w.extractLsb' 28 4 = 1#4) (hrsv : w.extractLsb' 17 3 = 0#3) :
    decodeCmd w =
      .ok (.construct (w.extractLsb' 24 4) (w.extractLsb' 20 4) (w.getLsbD 16) (w.extractLsb' 0 16)) :=
  if_pos ⟨hop, hrsv⟩

theorem decodeCmd_setSpr {w : CmdWord} (hop : w.extractLsb' 28 4 = 3#4) (h : w.extractLsb' 16 12 = 0#12) :
    decodeCmd w = .ok (.setSpr (w.extractLsb' 0 16)) := by
  simp [decodeCmd, hop, h]

/-- Settles O1: the two commands with operands by the fields of their words, the others by running the
decoder on their code. -/
theorem decodeEncodeReturnsInstr : Obligations.DecodeEncodeReturnsInstr := by
  intro i
  cases i with
  | construct la lb p imm =>
    have hd := decodeCmd_construct (cmdWord_op 1#4 la lb p imm) (cmdWord_rsv 1#4 la lb p imm)
    rwa [cmdWord_la, cmdWord_lb, cmdWord_p, cmdWord_imm] at hd
  | setSpr imm =>
    have hd := decodeCmd_setSpr (cmdWord_op 3#4 0#4 0#4 false imm) (cmdWord_middle 3#4 imm)
    rwa [cmdWord_imm] at hd
  | reset | getSpr | getCount | getTurns | getInvalid | getStatus | detach => decide
  | notifyA | notifyB | sampleA | sampleB | decodeA | decodeB => decide
  | pinA v | pinB v => cases v <;> decide

/-! ### From a code to its instruction and back -/

/-- The command of a word that holds OP alone is encoded by OP alone. -/
theorem encode_of_op :
    ∀ row ∈ [(2#4, Instr.reset), (4#4, .getSpr), (5#4, .getCount), (6#4, .getTurns), (7#4, .getInvalid),
        (8#4, .getStatus), (9#4, .detach)],
      encode row.2 = .cmd (cmdWord row.1 0#4 0#4 false 0#16) := by
  decide

/-- The word of a command is its encoding: OP, the operands and zeros fix every bit. -/
theorem encode_of_decodeCmd {w : CmdWord} {i : Instr} (h : decodeCmd w = .ok i) : encode i = .cmd w := by
  obtain ⟨hop, hrsv, rfl⟩ | ⟨hop, hmid, rfl⟩ | ⟨hlow, hmem⟩ := decodeCmd_ok h
  · exact congrArg Code.cmd (hop ▸ cmdWord_of_fields hrsv)
  · exact congrArg Code.cmd (hop ▸ cmdWord_of_op_imm hmid)
  · exact (encode_of_op _ hmem).trans (congrArg Code.cmd (cmdWord_of_op hlow))

/-- A label is the encoding of its step, by the ten labels. -/
theorem encode_of_mem_evtLabels : ∀ c ∈ evtLabels, (decodeEvt c).instr?.map encode = some (.evt c) := by decide

/-- An EVT code that decodes is a label, and so the encoding of its step. -/
theorem encode_of_decodeEvt {c : EvtCode} {i : Instr} (h : decodeEvt c = .ok i) : encode i = .evt c := by
  by_cases hc : c ∈ evtLabels
  · simpa [h, Decoded.instr?] using encode_of_mem_evtLabels c hc
  · rw [decodeEvt_of_not_mem c hc] at h
    cases h

/-- Settles O2, one decoder at a time. -/
theorem encodeDecodeReturnsCode : Obligations.EncodeDecodeReturnsCode := by
  intro c i h
  cases c with
  | cmd w => exact encode_of_decodeCmd h
  | evt c => exact encode_of_decodeEvt h

/-! ### The ten labels (30_encoding.md R78) -/

/-- Settles O4: each code is the encoding of its label, and what is none of the ten is rejected. -/
theorem stepLabelCodes : Obligations.StepLabelCodes := by
  have hdec := decodeEncodeReturnsInstr
  exact ⟨hdec .notifyA, hdec .notifyB, hdec .sampleA, hdec .sampleB, hdec .decodeA, hdec .decodeB,
    hdec (.pinA false), hdec (.pinA true), hdec (.pinB false), hdec (.pinB true), decodeEvt_of_not_mem⟩

end Sys2Proof.Machine

/-! SUPPORT. The rows of 30_encoding.md R73 by mask and match, and the agents of the two formats (R79). -/

namespace Sys2Proof.Machine

/-! ### An instruction's own row (30_encoding.md R73, R78) -/

/-- Every instruction's code has the format of its agent and fits its own row. -/
theorem rowMatch (i : Instr) : Laws.RowMatch.Statement i := by
  cases i with
  | construct la lb p imm => exact Laws.RowMatch.construct la lb p imm
  | reset => exact Laws.RowMatch.reset
  | setSpr imm => exact Laws.RowMatch.setSpr imm
  | getSpr => exact Laws.RowMatch.getSpr
  | getCount => exact Laws.RowMatch.getCount
  | getTurns => exact Laws.RowMatch.getTurns
  | getInvalid => exact Laws.RowMatch.getInvalid
  | getStatus => exact Laws.RowMatch.getStatus
  | detach => exact Laws.RowMatch.detach
  | notifyA => exact Laws.RowMatch.notifyA
  | notifyB => exact Laws.RowMatch.notifyB
  | sampleA => exact Laws.RowMatch.sampleA
  | sampleB => exact Laws.RowMatch.sampleB
  | decodeA => exact Laws.RowMatch.decodeA
  | decodeB => exact Laws.RowMatch.decodeB
  | pinA v => exact Laws.RowMatch.pinA v
  | pinB v => exact Laws.RowMatch.pinB v

/-- A CMD word that decodes is a host command's and fits the row of its mnemonic. -/
theorem row_of_decodeCmd {w : CmdWord} {i : Instr} (h : decodeCmd w = .ok i) :
    i.agent = .host ∧ ∃ r ∈ cmdTable, r.1 = i.mnemonic ∧ w &&& r.2.2 = r.2.1 := by
  have hrow := rowMatch i
  rwa [Laws.RowMatch.Statement, encode_of_decodeCmd h] at hrow

/-- An EVT code that decodes is no host command's. -/
theorem agent_ne_host_of_decodeEvt {c : EvtCode} {i : Instr} (h : decodeEvt c = .ok i) : i.agent ≠ .host := by
  have hrow := rowMatch i
  rw [Laws.RowMatch.Statement, encode_of_decodeEvt h] at hrow
  exact hrow.1

/-- Settles O7: the format of an instruction's code is that of its agent. -/
theorem hostCannotIssueInternalSteps : Obligations.HostCannotIssueInternalSteps := by
  refine ⟨fun w i h => (row_of_decodeCmd h).1, fun c i h => ?_⟩
  have hne := agent_ne_host_of_decodeEvt h
  cases ha : i.agent with
  | env | notifierA | notifierB | decoder => decide
  | host => exact absurd ha hne

/-! ### The rows by mask and match -/

/-- A masked word agrees with the word on every field the mask covers. -/
theorem extractLsb'_of_masked {w mask pat : CmdWord} (h : w &&& mask = pat) {lo len : Nat}
    (hmask : mask.extractLsb' lo len = BitVec.allOnes len) : w.extractLsb' lo len = pat.extractLsb' lo len := by
  rw [← h, BitVec.extractLsb'_and, hmask, BitVec.and_allOnes]

/-- A row of the table is CONSTRUCT's or SET_SPR's, or its mask is the whole word and its match decodes to its
command. -/
theorem cmdTable_cases : ∀ r ∈ cmdTable,
    r = ("CONSTRUCT", 0x10000000#32, 0xF00E0000#32) ∨ r = ("SET_SPR", 0x30000000#32, 0xFFFF0000#32) ∨
    r.2.2 = BitVec.allOnes 32 ∧
      ∃ i ∈ [Instr.reset, .getSpr, .getCount, .getTurns, .getInvalid, .getStatus, .detach],
        decodeCmd r.2.1 = .ok i ∧ i.mnemonic = r.1 := by
  decide

/-- A word that fits a row decodes to that row's command: the masks of CONSTRUCT and SET_SPR fix OP and the bits outside
their fields, every other mask fixes the whole word. -/
theorem decodeCmd_of_row {r : String × BitVec 32 × BitVec 32} (hr : r ∈ cmdTable) {w : CmdWord}
    (h : w &&& r.2.2 = r.2.1) : ∃ i, decodeCmd w = .ok i ∧ i.mnemonic = r.1 := by
  obtain rfl | rfl | ⟨hmask, i, -, hd, hi⟩ := cmdTable_cases r hr
  · exact ⟨_, decodeCmd_construct (extractLsb'_of_masked h (by decide)) (extractLsb'_of_masked h (by decide)), rfl⟩
  · exact ⟨_, decodeCmd_setSpr (extractLsb'_of_masked h (by decide)) (extractLsb'_of_masked h (by decide)), rfl⟩
  · rw [hmask, BitVec.and_allOnes] at h
    exact ⟨i, h ▸ hd, hi⟩

/-- A row of the table is known by its mnemonic. -/
theorem row_eq_of_mnemonic : ∀ r ∈ cmdTable, ∀ r' ∈ cmdTable, r.1 = r'.1 → r = r' := by decide

/-- Settles O3: a word that fits a row decodes to its command, a word that decodes fits its command's row, and decoding
is a function. -/
theorem commandRowsByMaskAndMatch : Obligations.CommandRowsByMaskAndMatch := by
  refine ⟨fun r hr w => ⟨decodeCmd_of_row hr, ?_⟩, fun r hr r' hr' w h h' => ?_, fun w => ⟨fun hnone i hd => ?_, ?_⟩⟩
  · rintro ⟨i, hd, hi⟩
    obtain ⟨-, r', hr', hname, hfit⟩ := row_of_decodeCmd hd
    rwa [row_eq_of_mnemonic r hr r' hr' (hi.symm.trans hname.symm)]
  · obtain ⟨i, hd, hi⟩ := decodeCmd_of_row hr h
    obtain ⟨j, hd', hj⟩ := decodeCmd_of_row hr' h'
    cases hd.symm.trans hd'
    exact row_eq_of_mnemonic r hr r' hr' (hi.symm.trans hj)
  · obtain ⟨-, r, hr, -, hfit⟩ := row_of_decodeCmd hd
    exact hnone r hr hfit
  · intro hnone r hr hfit
    obtain ⟨i, hd, -⟩ := decodeCmd_of_row hr hfit
    exact hnone i hd

end Sys2Proof.Machine

/-! SUPPORT. The assembler's forms (30_encoding.md R82 to R84). -/

namespace Sys2Proof.Machine

/-! ### What each mnemonic with operands assembles as -/

section
variable (D : BitVec 16) (la lb spr n : Nat)

theorem asmPull_pulldown : asmPull "pulldown" = some false := rfl

theorem asmPull_pullup : asmPull "pullup" = some true := rfl

theorem assemble_construct_lines :
    assemble D "CONSTRUCT" [.num la, .num lb] = asmConstruct la lb D.toNat false := if_pos rfl

theorem assemble_construct_spr :
    assemble D "CONSTRUCT" [.num la, .num lb, .num spr] = asmConstruct la lb spr false := if_pos rfl

theorem assemble_construct_pull {w : String} {pull : Bool} (h : asmPull w = some pull) :
    assemble D "CONSTRUCT" [.num la, .num lb, .num spr, .word w] = asmConstruct la lb spr pull :=
  (if_pos rfl).trans (by simp only [h])

theorem assemble_setSpr : assemble D "SET_SPR" [.num n] = asmSetSpr n :=
  (if_neg (by decide)).trans (if_pos (.inl rfl))

theorem assemble_setStepsPerRevolution : assemble D "SET_STEPS_PER_REVOLUTION" [.num n] = asmSetSpr n :=
  (if_neg (by decide)).trans (if_pos (.inr rfl))

end

/-! ### The ranges (30_encoding.md R82) -/

theorem asmConstruct_in_range {la lb spr : Nat} (hla : la < 16) (hlb : lb < 16) (hspr : spr < 65536) (pull : Bool) :
    asmConstruct la lb spr pull =
      .ofInstr (.construct (BitVec.ofNat 4 la) (BitVec.ofNat 4 lb) pull (BitVec.ofNat 16 spr)) :=
  if_pos ⟨hla, hlb, hspr⟩

theorem asmConstruct_out_of_range {la lb spr : Nat} (h : la > 15 ∨ lb > 15 ∨ spr > 65535) (pull : Bool) :
    asmConstruct la lb spr pull = .error .outOfRange := if_neg (by omega)

theorem asmSetSpr_in_range {n : Nat} (h : n < 65536) : asmSetSpr n = .ofInstr (.setSpr (BitVec.ofNat 16 n)) := if_pos h

theorem asmSetSpr_out_of_range {n : Nat} (h : n > 65535) : asmSetSpr n = .error .outOfRange := if_neg (by omega)

/-- Settles O8: the short forms by the default they take, the aliases by their entries among the mnemonics. -/
theorem assemblerPseudoInstructions : Obligations.AssemblerPseudoInstructions := by
  refine ⟨fun la lb spr => ⟨?_, ?_⟩, fun la lb hla hlb => ?_, fun la lb spr hla hlb hspr => ?_,
    fun D => ⟨rfl, rfl, rfl⟩, fun D n => ?_, fun D n hn => ?_⟩
  · rw [assemble_construct_lines, assemble_construct_pull _ _ _ _ asmPull_pulldown]
    rfl
  · rw [assemble_construct_spr, assemble_construct_pull _ _ _ _ asmPull_pulldown]
  · exact (assemble_construct_lines _ la lb).trans (asmConstruct_in_range hla hlb (by decide) false)
  · exact (assemble_construct_spr _ la lb spr).trans (asmConstruct_in_range hla hlb hspr false)
  · rw [assemble_setStepsPerRevolution, assemble_setSpr]
  · exact (assemble_setSpr D n).trans (asmSetSpr_in_range hn)

/-- Settles O9: with either pull mode the operands go to the range check. -/
theorem assemblerRefusesOutOfRange : Obligations.AssemblerRefusesOutOfRange := by
  refine ⟨fun D la lb spr w hw h => ?_, fun D n hn => (assemble_setSpr D n).trans (asmSetSpr_out_of_range hn)⟩
  obtain ⟨pull, hpull⟩ : ∃ pull, asmPull w = some pull := by
    obtain rfl | rfl := hw
    · exact ⟨false, asmPull_pulldown⟩
    · exact ⟨true, asmPull_pullup⟩
  rw [assemble_construct_pull D la lb spr hpull, asmConstruct_out_of_range h]

/-! ### The worked encodings (30_encoding.md R84) -/

theorem instr?_eq_none_of_ne_ok {d : Decoded} (h : ∀ i, d ≠ .ok i) : d.instr? = none := by
  cases d with
  | ok i => exact absurd rfl (h i)
  | rejected r => rfl

/-- The illegal words of R84 fit no row of R73. -/
theorem illegal_examples_fit_no_row :
    ∀ w ∈ [0x00000000#32, 0xF0000000#32, 0x20000001#32, 0x10020FA0#32, 0x30010FA0#32],
      ∀ r ∈ cmdTable, w &&& r.2.2 ≠ r.2.1 := by
  simp [cmdTable]

/-- Settles O5: each line is assembled to its word, the word is the encoding of the instruction written, and an illegal
word fits no row. -/
theorem workedEncodings : Obligations.WorkedEncodings := by
  have hdec := decodeEncodeReturnsInstr
  obtain ⟨-, -, hnone⟩ := commandRowsByMaskAndMatch
  exact ⟨by decide, hdec (.construct 0 1 false 4000), by decide, hdec (.construct 2 5 true 100),
    by decide, hdec .reset, by decide, hdec (.setSpr 2000), by decide, hdec (.setSpr 0), by decide, hdec .getSpr,
    by decide, hdec .getCount, by decide, hdec .getTurns, by decide, hdec .getInvalid, by decide, hdec .getStatus,
    by decide, hdec .detach,
    fun w hw => instr?_eq_none_of_ne_ok ((hnone w).mp (illegal_examples_fit_no_row w hw))⟩

end Sys2Proof.Machine

/-! SUPPORT. PIN_A v and PIN_B v while attached (30_encoding.md R78, 40_notifier.md R101). -/

namespace Sys2Proof.Machine

/-- PIN_X v while attached is the edge detector on line X. -/
theorem exec_pinOf_some {s : State} {e : Encoder} (h : s.enc = some e) (v : Bool) (x : Line) :
    exec (pinOf v x) s = .next (pinChange Config.params (e.sel x) v false s) := by
  rw [exec_pinOf, pinLineStep_some h, pinStep_params]

/-- Settles O32: the edge detector on the one line flags it and, the lines being different, leaves the other's flag. -/
theorem pinLabelsDriveSelectedLines : Obligations.PinLabelsDriveSelectedLines := by
  intro s e v h hne
  refine ⟨(exec_pinOf_some h v .a).trans ?_, (exec_pinOf_some h v .b).trans ?_⟩
  · rw [pinChange_some h]
    simp [hne, State.drive, State.pin]
  · rw [pinChange_some h]
    simp [hne.symm, State.drive, State.pin]

end Sys2Proof.Machine

/-! SUPPORT. The steps of the ENV and of the notifiers, by their own effect (40_notifier.md R101 to R109). -/

namespace Sys2Proof.Machine

/-! ### The edge detector, line by line (R101) -/

/-- What the edge detector does to a line's flag while attached. -/
theorem pinChange_pend {s : State} {e : Encoder} (h : s.enc = some e) (p : Params) (l : LineIdx) (v lose : Bool)
    (x : Line) :
    (pinChange p l v lose s).pend x =
      (s.pend x || (decide (l = e.sel x) && v != s.pin l && !(p.edgeLoss && lose))) := by
  rw [pinChange_some h]
  cases x <;> rfl

/-- Attached or not, a PIN drives its line and no other. -/
@[simp] theorem pinChange_pin (p : Params) (l : LineIdx) (v lose : Bool) (s : State) (m : LineIdx) :
    (pinChange p l v lose s).pin m = (s.drive l v).pin m := by
  obtain h | ⟨e, h⟩ := s.enc.eq_none_or_eq_some
  · rw [pinChange_none h]
  · rw [pinChange_some h]; rfl

/-- PIN on an existing line is the edge detector. -/
theorem execPin_of_lt {l : LineIdx} (hl : l.toNat < Config.numLines) (v : Bool) (s : State) :
    execPin l v s = .next (pinChange Config.params l v false s) :=
  if_pos hl

/-! ### No change of level is lost track of -/

/-- While attached no edge is lost exactly when each line is flagged or was last sampled at its pin's level. -/
theorem State.noLostEdge_of_some {s : State} {e : Encoder} (h : s.enc = some e) :
    s.noLostEdge = ((s.pendA || e.lineA == s.pin e.selA) && (s.pendB || e.lineB == s.pin e.selB)) := by
  simp [State.noLostEdge, h]

/-- The same for either line. -/
theorem State.noLostEdge_iff {s : State} {e : Encoder} (h : s.enc = some e) :
    s.noLostEdge = true ↔ ∀ x, s.pend x = true ∨ e.level x = s.pin (e.sel x) := by
  simp only [State.noLostEdge_of_some h, Bool.and_eq_true, Bool.or_eq_true, beq_iff_eq]
  constructor
  · rintro ⟨ha, hb⟩ x
    cases x with
    | a => exact ha
    | b => exact hb
  · exact fun hs => ⟨hs .a, hs .b⟩

/-- Detached, there is no line to lose track of. -/
theorem State.noLostEdge_of_none {s : State} (h : s.enc = none) : s.noLostEdge = true := by
  simp [State.noLostEdge, h]

/-- With EDGE_LOSS false a PIN that changes a selected line's level flags that line, and any other PIN leaves that line's
flag and level as they were. -/
theorem pinChange_keeps_noLostEdge {s : State} (hs : s.noLostEdge = true) {p : Params} (hp : p.edgeLoss = false)
    (l : LineIdx) (v lose : Bool) : (pinChange p l v lose s).noLostEdge = true := by
  obtain h | ⟨e, h⟩ := s.enc.eq_none_or_eq_some
  · exact State.noLostEdge_of_none ((pinChange_enc ..).trans h)
  · rw [State.noLostEdge_iff h] at hs
    refine (State.noLostEdge_iff ((pinChange_enc ..).trans h)).mpr fun x => ?_
    rw [pinChange_pend h, pinChange_pin]
    by_cases hl : l = e.sel x
    · subst hl
      by_cases hv : v = s.pin (e.sel x)
      · simpa [hv] using hs x
      · simp [hv, hp]
    · simpa [hl, State.pin_drive_ne s v hl] using hs x

/-- SAMPLE_X stores its pin's level as it clears its flag, and leaves the other line's flag and level as they were. -/
theorem sampled_keeps_noLostEdge {s : State} {e : Encoder} (h : s.enc = some e) (hs : s.noLostEdge = true) (x : Line) :
    State.noLostEdge
      { (s.setPend false x).setDreq true x with enc := some (e.setLevel (s.pin (e.sel x)) x) } = true := by
  rw [State.noLostEdge_iff h] at hs
  refine (State.noLostEdge_iff rfl).mpr fun y => ?_
  cases x <;> cases y
  · exact .inr rfl
  · exact hs .b
  · exact hs .a
  · exact .inr rfl

/-- No instruction loses an edge: CONSTRUCT and RESET store the pins' levels, SAMPLE_X stores its own pin's, NOTIFY_X
only sets a flag, and no other instruction but PIN writes a level, a pin or a flag. -/
theorem Effect.keeps_noLostEdge {i : Instr} {s t : State} (h : Effect s i t) (hs : s.noLostEdge = true) :
    t.noLostEdge = true := by
  cases h with
  | kept | replied => exact hs
  | constructed | reseeded => exact (State.noLostEdge_iff rfl).mpr fun x => .inr (by cases x <;> rfl)
  | sprSet h n => rw [State.noLostEdge_of_some h] at hs; rw [State.noLostEdge_of_some rfl]; exact hs
  | tornDown => rfl
  | notified h x =>
    rw [State.noLostEdge_iff h] at hs
    refine (State.noLostEdge_iff ((s.setPend_enc true x).trans h)).mpr fun y => ?_
    obtain rfl | hxy := eq_or_ne x y
    · exact .inl (s.pend_setPend true x)
    · rw [State.pend_setPend_ne s true hxy, State.setPend_pin]
      exact hs y
  | sampled h x => exact sampled_keeps_noLostEdge h hs x
  | decoded h x =>
    rw [State.noLostEdge_of_some h] at hs
    rw [State.noLostEdge_of_some rfl]
    cases x <;> exact hs
  | driven => exact pinChange_keeps_noLostEdge hs rfl _ _ _

/-- Settles O52, by what a step can do; taking an event off the inbox or making a draw touches no flag, level or pin. -/
theorem stepKeepsNoLostEdge : Obligations.StepKeepsNoLostEdge := by
  intro s t hs h
  obtain ⟨c, rest, i, -, -, he⟩ | ⟨c, rest, -, rfl⟩ | ⟨l, v, rest, -, -, rfl⟩ | ⟨i, -, -, he⟩ | ⟨-, -, rfl⟩ :=
    step_cases h
  · exact (effect_of_exec he).keeps_noLostEdge hs
  · exact hs
  · exact pinChange_keeps_noLostEdge (s := { s with inbox := rest }) hs rfl _ _ _
  · exact (effect_of_exec he).keeps_noLostEdge hs
  · exact hs

/-! ### One line through PIN, SAMPLE and DECODE (R108) -/

/-- SAMPLE_X while attached with its flag set. -/
theorem sampleStep_some {s : State} {e : Encoder} {x : Line} (h : s.enc = some e) (hp : s.pend x = true) :
    sampleStep x s = { (s.setPend false x).setDreq true x with enc := some (e.setLevel (s.pin (e.sel x)) x) } := by
  simp [sampleStep, h, hp]

/-- The machine as line x sees it: attached with encoder e, the level of line x's pin, and its two flags. -/
structure State.Shows (s : State) (x : Line) (e : Encoder) (pin pend dreq : Bool) : Prop where
  enc : s.enc = some e
  pin : s.pin (e.sel x) = pin
  pend : s.pend x = pend
  dreq : s.dreq x = dreq

section
variable {s : State} {x : Line} {e : Encoder} {w p d : Bool}

/-- PIN_X v drives line X and flags it when its level changes. -/
theorem State.Shows.afterPin (h : s.Shows x e w p d) (v : Bool) :
    ∃ t, exec (pinOf v x) s = .next t ∧ t.Shows x e v (p || v != w) d := by
  refine ⟨_, exec_pinOf_some h.enc v x, (pinChange_enc ..).trans h.enc, ?_, ?_, (pinChange_dreq ..).trans h.dreq⟩
  · rw [pinChange_pin, State.pin_drive_self]
  · simp [pinChange_pend h.enc, h.pin, h.pend]

/-- A change of level flags the line. -/
theorem State.Shows.afterPin_not (h : s.Shows x e w p d) :
    ∃ t, exec (pinOf (!w) x) s = .next t ∧ t.Shows x e (!w) true d := by
  simpa using h.afterPin (!w)

/-- A flagged line stays flagged. -/
theorem State.Shows.afterPin_flagged (h : s.Shows x e w true d) (v : Bool) :
    ∃ t, exec (pinOf v x) s = .next t ∧ t.Shows x e v true d := by
  simpa using h.afterPin v

/-- SAMPLE_X with line X flagged stores the pin's level and asks for a decode. -/
theorem State.Shows.afterSample (h : s.Shows x e w true d) :
    ∃ t, exec (sampleOf x) s = .next t ∧ t.Shows x (e.setLevel w x) w false true := by
  refine ⟨_, exec_sampleOf x s, ?_⟩
  rw [sampleStep_some h.enc h.pend, h.pin]
  exact ⟨rfl, by cases x <;> exact h.pin, by cases x <;> rfl, by cases x <;> rfl⟩

/-- DECODE_X with its request set makes one transition. -/
theorem State.Shows.afterDecode (h : s.Shows x e w p true) :
    ∃ t, exec (decodeOf x) s = .next t ∧ t.Shows x (transition e) w p false := by
  refine ⟨_, exec_decodeOf x s, ?_⟩
  rw [decodeStep_some h.enc h.dreq]
  exact ⟨rfl, by cases x <;> exact h.pin, by cases x <;> exact h.pend, by cases x <;> rfl⟩

/-- SAMPLE_X, DECODE_X with line X flagged: one transition with the pin's level stored. -/
theorem State.Shows.afterSampleDecode (h : s.Shows x e w true d) :
    ∃ t, execAll [sampleOf x, decodeOf x] s = .next t ∧
      t.Shows x (transition (e.setLevel w x)) w false false := by
  obtain ⟨t₁, hx₁, h₁⟩ := h.afterSample
  obtain ⟨t₂, hx₂, h₂⟩ := h₁.afterDecode
  exact ⟨t₂, by rw [execAll_cons hx₁, execAll_cons hx₂]; rfl, h₂⟩

end

/-! ### A transition with both levels as they were, or with one of them changed (41_decoder.md R123, R125) -/

theorem Encoder.inStep_iff (e : Encoder) : e.inStep = true ↔ e.phase = phaseOf e.lineA e.lineB := by
  simp [Encoder.inStep]

@[simp] theorem Encoder.setLevel_level (e : Encoder) (x : Line) : e.setLevel (e.level x) x = e := by cases x <;> rfl

/-- With the phase in step a transition is NOMOVE and counts nothing. -/
theorem transition_of_inStep {e : Encoder} (h : e.inStep = true) :
    (transition e).lastClass = .nomove ∧ (transition e).count = e.count ∧ (transition e).invCount = e.invCount := by
  have hclass : classify (delta e.phase (phaseOf e.lineA e.lineB)) = .nomove := by
    rw [← e.inStep_iff.mp h]
    simpa using classify_delta_add e.phase 0
  simp [hclass]

/-- A transition to the next phase is forward and counts one step up. -/
theorem transition_counts_up {e : Encoder} (h : (transition e).phase = e.phase + 1) :
    (transition e).count = e.count + 1 ∧ (transition e).invCount = e.invCount := by
  have hclass : classify (delta e.phase (phaseOf e.lineA e.lineB)) = .fwd := by
    rw [← transition_phase, h]
    exact classify_delta_add e.phase 1
  simp [hclass]

/-- A transition to the phase before is reverse and counts one step down. -/
theorem transition_counts_down {e : Encoder} (h : e.phase = (transition e).phase + 1) :
    (transition e).count = e.count - 1 ∧ (transition e).invCount = e.invCount := by
  have hclass : classify (delta e.phase (phaseOf e.lineA e.lineB)) = .rev := by
    have hback : (transition e).phase = e.phase + 3 := by rw [h, add_assoc]; exact (add_zero _).symm
    rw [← transition_phase, hback]
    exact classify_delta_add e.phase 3
  simp [hclass]

/-- The encoder after a change of line x was sampled and decoded. -/
def Encoder.moved (e : Encoder) (x : Line) : Encoder := transition (e.setLevel (!e.level x) x)

@[simp] theorem Encoder.level_moved (e : Encoder) (x : Line) : (e.moved x).level x = !e.level x := by cases x <;> rfl

/-- Line x brought back to its level and decoded is the second change of line x. -/
theorem Encoder.moved_back (e : Encoder) (x : Line) :
    transition ((e.moved x).setLevel (e.level x) x) = (e.moved x).moved x := by
  rw [Encoder.moved.eq_def (e.moved x), Encoder.level_moved, Bool.not_not]

/-- Inverting line A moves the phase of the lines by one, one way or the other. -/
theorem phaseOf_not_left : ∀ a b, phaseOf (!a) b = phaseOf a b + 1 ∨ phaseOf a b = phaseOf (!a) b + 1 := by decide

/-- Inverting line B moves the phase of the lines by one, one way or the other. -/
theorem phaseOf_not_right : ∀ a b, phaseOf a (!b) = phaseOf a b + 1 ∨ phaseOf a b = phaseOf a (!b) + 1 := by decide

/-- From a phase in step, one changed line moves the phase by one. -/
theorem Encoder.phase_moved {e : Encoder} (h : e.inStep = true) (x : Line) :
    (e.moved x).phase = e.phase + 1 ∨ e.phase = (e.moved x).phase + 1 := by
  rw [Encoder.inStep_iff] at h
  rw [h]
  cases x with
  | a => exact phaseOf_not_left e.lineA e.lineB
  | b => exact phaseOf_not_right e.lineA e.lineB

/-- The line changed back, the phase is again that of the lines at first. -/
theorem Encoder.phase_moved_moved {e : Encoder} (h : e.inStep = true) (x : Line) :
    ((e.moved x).moved x).phase = e.phase := by
  rw [Encoder.inStep_iff] at h
  rw [h, ← Encoder.moved_back]
  cases x <;> simp [Encoder.moved]

theorem Encoder.moved_counts_up {e : Encoder} {x : Line} (h : (e.moved x).phase = e.phase + 1) :
    (e.moved x).count = e.count + 1 ∧ (e.moved x).invCount = e.invCount := by
  cases x <;> exact transition_counts_up h

theorem Encoder.moved_counts_down {e : Encoder} {x : Line} (h : e.phase = (e.moved x).phase + 1) :
    (e.moved x).count = e.count - 1 ∧ (e.moved x).invCount = e.invCount := by
  cases x <;> exact transition_counts_down h

/-- With the phase in step, a changed line counts one step. -/
theorem Encoder.moved_counts_one {e : Encoder} (h : e.inStep = true) (x : Line) :
    ((e.moved x).count = e.count + 1 ∨ (e.moved x).count = e.count - 1) ∧ (e.moved x).invCount = e.invCount := by
  obtain hp | hp := Encoder.phase_moved h x
  · exact (Encoder.moved_counts_up hp).imp_left .inl
  · exact (Encoder.moved_counts_down hp).imp_left .inr

/-- With the phase in step, a line changed and changed back counts one step and takes it back. -/
theorem Encoder.moved_moved_counts_none {e : Encoder} (h : e.inStep = true) (x : Line) :
    ((e.moved x).moved x).count = e.count ∧ ((e.moved x).moved x).invCount = e.invCount := by
  have hback := Encoder.phase_moved_moved h x
  obtain hp | hp := Encoder.phase_moved h x
  · obtain ⟨hcount, hinv⟩ := Encoder.moved_counts_up hp
    obtain ⟨hcount', hinv'⟩ := Encoder.moved_counts_down (e := e.moved x) (x := x) (by rw [hback, hp])
    exact ⟨by rw [hcount', hcount, add_sub_cancel_right], hinv'.trans hinv⟩
  · obtain ⟨hcount, hinv⟩ := Encoder.moved_counts_down hp
    obtain ⟨hcount', hinv'⟩ := Encoder.moved_counts_up (e := e.moved x) (x := x) (by rw [hback, hp])
    exact ⟨by rw [hcount', hcount, sub_add_cancel], hinv'.trans hinv⟩

/-- Settles O36: a PIN flags the line, SAMPLE stores the level the pin has by then, and DECODE makes the one transition
that level asks for. -/
theorem coalescedEdgesCountOnce : Obligations.CoalescedEdgesCountOnce := by
  intro s e x he _ hstep hpin
  have h₀ : s.Shows x e (e.level x) (s.pend x) (s.dreq x) := ⟨he, hpin, rfl, rfl⟩
  obtain ⟨t₁, hx₁, h₁⟩ := h₀.afterPin_not
  obtain ⟨hone, hinv⟩ := Encoder.moved_counts_one hstep x
  refine ⟨?_, ?_, ?_⟩
  · obtain ⟨t₂, hx₂, h₂⟩ := h₁.afterPin_flagged (e.level x)
    obtain ⟨t, hx, h⟩ := h₂.afterSampleDecode
    rw [Encoder.setLevel_level] at h
    exact ⟨t, transition e, by rw [execAll_cons hx₁, execAll_cons hx₂, hx], h.enc, by cases x <;> rfl,
      transition_of_inStep hstep⟩
  · obtain ⟨t₂, hx₂, h₂⟩ := h₁.afterPin_flagged (e.level x)
    obtain ⟨t₃, hx₃, h₃⟩ := h₂.afterPin_flagged (!e.level x)
    obtain ⟨t, hx, h⟩ := h₃.afterSampleDecode
    exact ⟨t, e.moved x, by rw [execAll_cons hx₁, execAll_cons hx₂, execAll_cons hx₃, hx], h.enc, e.level_moved x,
      hone, hinv⟩
  · obtain ⟨t₂, hx₂, h₂⟩ := h₁.afterSample
    obtain ⟨t₃, hx₃, h₃⟩ := h₂.afterPin_not
    rw [Bool.not_not] at hx₃ h₃
    obtain ⟨t, hx, h⟩ := h₃.afterDecode
    obtain ⟨u, hxu, hu⟩ := State.Shows.afterSampleDecode (e := e.moved x) h
    rw [e.moved_back] at hu
    exact ⟨t, e.moved x, by rw [execAll_cons hx₁, execAll_cons hx₂, execAll_cons hx₃, execAll_cons hx]; rfl, h.pend,
      h.enc, hone, u, (e.moved x).moved x, hxu, hu.pend, hu.enc, by simp,
      Encoder.moved_moved_counts_none hstep x⟩

/-! ### The steps of the ENV and the notifiers, one by one -/

/-- Settles O31: a scheduled PIN on an existing line is the edge detector with this hardware's EDGE_LOSS. -/
theorem pinChangeRaisesPending : Obligations.PinChangeRaisesPending := by
  intro s l v rest hs hl
  have hstep := (step_cons hs).trans (execPin_of_lt hl v _)
  refine ⟨fun h => ?_, fun e h => ?_, fun p lose => ⟨fun h => pinChange_none h p l v lose, fun e h => ?_⟩⟩
  · exact hstep.trans (congrArg _ (pinChange_none (s := { s with inbox := rest }) h ..))
  · rw [hstep, pinChange_some (s := { s with inbox := rest }) h]
    simp [State.drive, State.pin]
  · exact pinChange_some h p l v lose

/-- NOTIFY_X while attached flags its line. -/
theorem notifyStep_attached {s : State} (h : s.enc ≠ none) (x : Line) :
    notifyStep Config.params x s = s.setPend true x := by
  rw [notifyStep_params]
  exact if_pos (Option.isSome_iff_ne_none.mpr h)

/-- Settles O33, each line's NOTIFY by the shared step. -/
theorem notifySetsPending : Obligations.NotifySetsPending :=
  ⟨fun _ _ => ⟨rfl, rfl⟩, rfl, fun _ h =>
    ⟨congrArg Host.Outcome.next (notifyStep_attached h .a), congrArg Host.Outcome.next (notifyStep_attached h .b)⟩⟩

/-- Settles O34, each line's SAMPLE by the shared step. -/
theorem sampleTakesItsOwnLine : Obligations.SampleTakesItsOwnLine :=
  ⟨fun _ _ => ⟨rfl, rfl⟩, fun _ _ h =>
    ⟨fun hp => congrArg Host.Outcome.next (sampleStep_some (x := .a) h hp),
     fun hp => congrArg Host.Outcome.next (sampleStep_some (x := .b) h hp)⟩⟩

/-- Each guard of a notifier's and the decoder's steps needs att = 1. -/
theorem enabled_of_detached {s : State} (h : s.att = false) (p : Params) :
    ∀ i ∈ [Instr.notifyA, .notifyB, .sampleA, .sampleB, .decodeA, .decodeB], enabled p s i = false := by
  simp [enabled, h]

/-- Settles O35: a step that is not enabled changes nothing, and a detached PIN changes its pin alone. -/
theorem detachedNotifierIsSilent : Obligations.DetachedNotifierIsSilent := by
  intro s h
  refine ⟨fun i hi => ?_, fun l v hl => ?_⟩
  · have hoff := enabled_of_detached h Config.params i hi
    exact ⟨hoff, disabledStepChangesNothing i s hoff⟩
  · exact (execPin_of_lt hl v s).trans (congrArg _ (pinChange_none (s.att_eq_false_iff.mp h) ..))

end Sys2Proof.Machine

/-! SUPPORT. The quadrature decoder's transition: its class by the step from the old phase to the new one, and what it
does to the counts (41_decoder.md R120 to R128, R134 to R136). -/

namespace Sys2Proof.Machine

/-- Settles O38, over the four pairs of levels. -/
theorem phaseMapIsGrayOrdered : Obligations.PhaseMapIsGrayOrdered := by
  unfold Obligations.PhaseMapIsGrayOrdered
  decide

/-! ### The class of a transition -/

section
variable (p q : Phase)

theorem classify_delta_eq_nomove_iff : classify (delta p q) = .nomove ↔ q = p := by revert p q; decide
theorem classify_delta_eq_fwd_iff : classify (delta p q) = .fwd ↔ q = p + 1 := by revert p q; decide
theorem classify_delta_eq_invalid_iff : classify (delta p q) = .invalid ↔ q = p + 2 := by revert p q; decide
theorem classify_delta_eq_rev_iff : classify (delta p q) = .rev ↔ q = p - 1 := by revert p q; decide

/-- The class by the signed difference itself (R125): the arm of R126 is never taken. -/
theorem classify_delta_cases :
    (delta p q = 2 ∨ delta p q = -2) ∧ classify (delta p q) = .invalid ∨
    delta p q = 0 ∧ classify (delta p q) = .nomove ∨
    (delta p q = 3 ∨ delta p q = -1) ∧ classify (delta p q) = .fwd ∨
    (delta p q = -3 ∨ delta p q = 1) ∧ classify (delta p q) = .rev := by
  revert p q; decide

end

/-- A transition to the phase two steps away counts nothing but one invalid transition. -/
theorem transition_counts_invalid {e : Encoder} (h : (transition e).phase = e.phase + 2) :
    (transition e).count = e.count ∧ (transition e).invCount = e.invCount + 1 := by
  have hclass := (classify_delta_eq_invalid_iff e.phase (phaseOf e.lineA e.lineB)).mpr h
  simp [hclass]

/-- With the phase in step a transition writes prevPhase and lastClass alone. -/
theorem transition_eq_of_inStep {e : Encoder} (h : e.inStep = true) :
    transition e = { e with prevPhase := e.phase, lastClass := .nomove } := by
  rw [Encoder.inStep_iff] at h
  have hclass := (classify_delta_eq_nomove_iff e.phase e.phase).mpr rfl
  simp [transition, ← h, hclass]

/-- The transition is one in the sense of R123 and R125. -/
theorem transitionOf_transition (e : Encoder) : TransitionOf e (transition e) := by
  refine ⟨rfl, ?_⟩
  obtain ⟨hd, hc⟩ | ⟨hd, hc⟩ | ⟨hd, hc⟩ | ⟨hd, hc⟩ := classify_delta_cases e.phase (phaseOf e.lineA e.lineB)
  · exact .inl ⟨hd, hc, by simp [hc], by simp [hc]⟩
  · exact .inr (.inl ⟨hd, hc, by simp [hc], by simp [hc]⟩)
  · exact .inr (.inr (.inl ⟨hd, hc, by simp [hc], by simp [hc]⟩))
  · exact .inr (.inr (.inr ⟨hd, hc, by simp [hc], by simp [hc]⟩))

/-! ### Position modulo 4 is conserved (R125, R134) -/

/-- Subtraction modulo a power of two is subtraction modulo every smaller one. -/
theorem setWidth_sub_of_le {v w : Nat} (h : w ≤ v) (x y : BitVec v) :
    (x - y).setWidth w = x.setWidth w - y.setWidth w := by
  rw [sub_eq_add_neg, BitVec.setWidth_add _ _ h, BitVec.setWidth_neg_of_le h, ← sub_eq_add_neg]

/-- Every class moves the phase by what it adds to count, or by two where it adds to invCount. -/
@[simp] theorem transition_origin (e : Encoder) : (transition e).origin = e.origin := by
  simp only [Encoder.origin, transition_phase, transition_count, transition_invCount]
  cases hc : classify (delta e.phase (phaseOf e.lineA e.lineB)) with
  | nomove => rw [(classify_delta_eq_nomove_iff _ _).mp hc, countAfter_nomove, invCountAfter_nomove]
  | fwd =>
    have hcount : (e.count + 1).setWidth 2 = e.count.setWidth 2 + 1 := BitVec.setWidth_add _ 1 (by decide)
    rw [(classify_delta_eq_fwd_iff _ _).mp hc, countAfter_fwd, invCountAfter_fwd, hcount]
    ring
  | rev =>
    have hcount : (e.count - 1).setWidth 2 = e.count.setWidth 2 - 1 := setWidth_sub_of_le (by decide) _ 1
    rw [(classify_delta_eq_rev_iff _ _).mp hc, countAfter_rev, invCountAfter_rev, hcount]
    ring
  | invalid =>
    have hinv : (e.invCount + 1).setWidth 2 = e.invCount.setWidth 2 + 1 := BitVec.setWidth_add _ 1 (by decide)
    rw [(classify_delta_eq_invalid_iff _ _).mp hc, countAfter_invalid, invCountAfter_invalid, hinv]
    change e.phase + 2 - _ - 2 * (_ + 1) = e.phase - _ - 2 * _
    ring

@[simp] theorem Encoder.origin_setLevel (e : Encoder) (v : Bool) (x : Line) : (e.setLevel v x).origin = e.origin := by
  cases x <;> rfl

/-- Of what can become of the encoder only a RESET moves its origin. -/
theorem Effect.keeps_origin {i : Instr} {s t : State} (h : Effect s i t) (hi : i ≠ .reset) {e e' : Encoder}
    (hs : s.enc = some e) (ht : t.enc = some e') : e'.origin = e.origin := by
  obtain rfl | ⟨hr, -⟩ | ⟨n, -, rfl⟩ | ⟨x, -, rfl⟩ | ⟨x, -, rfl⟩ := h.enc_cases hs ht
  · rfl
  · exact absurd hr hi
  · rfl
  · exact e.origin_setLevel _ x
  · exact transition_origin e

/-- A drained step is no RESET. -/
theorem ne_reset_of_mem_pendingSteps {i : Instr} {s : State} (h : i ∈ pendingSteps s) : i ≠ .reset := by
  rintro rfl
  simp [pendingSteps] at h

/-- Settles O53, by what a step can do: it leaves the encoder as it is, or runs one instruction, which is no RESET. -/
theorem stepKeepsOriginModFour : Obligations.StepKeepsOriginModFour := by
  intro s t e e' hs h ht hreset
  obtain ⟨c, rest, i, hin, hd, he⟩ | ⟨c, rest, -, rfl⟩ | ⟨l, v, rest, -, -, rfl⟩ | ⟨i, hi, -, he⟩ | ⟨-, -, rfl⟩ :=
    step_cases h
  · refine (effect_of_exec he).keeps_origin ?_ hs ht
    rintro rfl
    exact hreset c rest hin hd
  · cases hs.symm.trans ht; rfl
  · rw [pinChange_enc] at ht; cases hs.symm.trans ht; rfl
  · exact (effect_of_exec he).keeps_origin (ne_reset_of_mem_pendingSteps hi) hs ht
  · cases hs.symm.trans ht; rfl

/-! ### DECODE_X -/

/-- DECODE_X while attached with its request set. -/
theorem exec_decodeOf_some {s : State} {e : Encoder} {x : Line} (h : s.enc = some e) (hd : s.dreq x = true) :
    exec (decodeOf x) s = .next { s.setDreq false x with enc := some (transition e) } := by
  rw [exec_decodeOf, decodeStep_some h hd]

/-- Settles O39, each line's DECODE by the shared step. -/
theorem decodeMakesOneTransition : Obligations.DecodeMakesOneTransition :=
  ⟨fun _ _ => ⟨rfl, rfl⟩, fun _ e h =>
    ⟨fun hd => ⟨_, exec_decodeOf_some (x := .a) h hd, transitionOf_transition e⟩,
     fun hd => ⟨_, exec_decodeOf_some (x := .b) h hd, transitionOf_transition e⟩⟩⟩

/-- Settles O40: the counts go by the step of the phase, and the sums wrap. -/
theorem countersWrap : Obligations.CountersWrap := by
  intro s e x h hd
  have hexec := exec_decodeOf_some h hd
  refine ⟨fun hc hp => ⟨_, _, hexec, rfl, ?_⟩, fun hc hp => ⟨_, _, hexec, rfl, ?_⟩,
    fun hp => ⟨_, _, hexec, rfl, ?_⟩⟩
  · rw [(transition_counts_up hp).1, hc]
    decide
  · rw [(transition_counts_down (e := e) (by rw [transition_phase, hp, sub_add_cancel])).1, hc]
    decide
  · rw [(transition_counts_invalid hp).2, BitVec.toNat_add]
    rfl

/-- Settles O41: a transition takes the phase of the stored lines, and one with the phase in step is NOMOVE. -/
theorem repeatedDecodeIsNoMove : Obligations.RepeatedDecodeIsNoMove := by
  intro s e x h hd
  have hexec := exec_decodeOf_some h hd
  refine ⟨⟨_, _, hexec, rfl, rfl, rfl, rfl⟩, fun hp => ?_⟩
  rw [hexec, transition_eq_of_inStep (e.inStep_iff.mpr hp)]

end Sys2Proof.Machine

/-! SUPPORT. Changes of the lines sampled and decoded one at a time, both at once, and around a full cycle
(41_decoder.md R132, R133, R137). -/

namespace Sys2Proof.Machine

/-- Two different lines are A and B, one way or the other. -/
theorem Line.ne_cases {x y : Line} (h : x ≠ y) : x = .a ∧ y = .b ∨ x = .b ∧ y = .a := by
  cases x with
  | a => cases y with
    | a => exact absurd rfl h
    | b => exact .inl ⟨rfl, rfl⟩
  | b => cases y with
    | a => exact .inr ⟨rfl, rfl⟩
    | b => exact absurd rfl h

/-! ### The direction of a change of one line (R133) -/

/-- The step a change of line x asks for: 1, forward, when A changes away from B or B to A's level, else -1. -/
def Encoder.direction (e : Encoder) : Line → Int
  | .a => if e.lineA = e.lineB then 1 else -1
  | .b => if e.lineA = e.lineB then -1 else 1

theorem Encoder.direction_b (e : Encoder) : e.direction .b = -e.direction .a := by
  by_cases h : e.lineA = e.lineB <;> simp [Encoder.direction, h]

theorem Encoder.direction_cases (e : Encoder) (x : Line) : e.direction x = 1 ∨ e.direction x = -1 := by
  by_cases h : e.lineA = e.lineB <;> cases x <;> simp [Encoder.direction, h]

/-- After a change of one line a change of the other goes on in the same direction. -/
theorem Encoder.direction_moved (e : Encoder) {x y : Line} (h : x ≠ y) : (e.moved x).direction y = e.direction x := by
  obtain ⟨rfl, rfl⟩ | ⟨rfl, rfl⟩ := Line.ne_cases h <;>
    cases ha : e.lineA <;> cases hb : e.lineB <;> simp [Encoder.direction, Encoder.moved, ha, hb]

theorem phaseOf_not_left_eq : ∀ a b, phaseOf (!a) b = phaseOf a b + ((if a = b then 1 else -1 : Int) : Phase) := by
  decide

theorem phaseOf_not_right_eq : ∀ a b, phaseOf a (!b) = phaseOf a b + ((if a = b then -1 else 1 : Int) : Phase) := by
  decide

/-- From a phase in step, a changed line moves the phase in its direction. -/
theorem Encoder.phase_moved_eq {e : Encoder} (h : e.inStep = true) (x : Line) :
    (e.moved x).phase = e.phase + (e.direction x : Phase) := by
  rw [e.inStep_iff.mp h]
  cases x with
  | a => exact phaseOf_not_left_eq e.lineA e.lineB
  | b => exact phaseOf_not_right_eq e.lineA e.lineB

@[simp] theorem Encoder.inStep_moved (e : Encoder) (x : Line) : (e.moved x).inStep = true := transition_inStep _

theorem Encoder.lastClass_moved (e : Encoder) (x : Line) :
    (e.moved x).lastClass = classify (delta e.phase (e.moved x).phase) := by
  cases x <;> rfl

theorem Encoder.moved_forward {e : Encoder} {x : Line} (h : e.inStep = true) (hd : e.direction x = 1) :
    (e.moved x).lastClass = .fwd ∧ (e.moved x).phase = e.phase + 1 ∧ (e.moved x).count = e.count + 1 := by
  have hp : (e.moved x).phase = e.phase + 1 := by rw [e.phase_moved_eq h, hd, Int.cast_one]
  exact ⟨by rw [e.lastClass_moved, classify_delta_eq_fwd_iff, hp], hp, (e.moved_counts_up hp).1⟩

theorem Encoder.moved_reverse {e : Encoder} {x : Line} (h : e.inStep = true) (hd : e.direction x = -1) :
    (e.moved x).lastClass = .rev ∧ (e.moved x).phase = e.phase - 1 ∧ (e.moved x).count = e.count - 1 := by
  have hp : (e.moved x).phase = e.phase - 1 := by
    rw [e.phase_moved_eq h, hd, Int.cast_neg, Int.cast_one, sub_eq_add_neg]
  exact ⟨by rw [e.lastClass_moved, classify_delta_eq_rev_iff, hp], hp,
    (e.moved_counts_down (by rw [hp, sub_add_cancel])).1⟩

/-- Settles O42: SAMPLE_X stores the changed level, and the transition goes in the direction of the change. -/
theorem oneLineChangeIsOneStep : Obligations.OneLineChangeIsOneStep := by
  intro s e x he hstep hp hpin
  have h₀ : s.Shows x e (!e.level x) true (s.dreq x) := ⟨he, hpin, hp, rfl⟩
  obtain ⟨t, hx, h⟩ := h₀.afterSampleDecode
  refine ⟨t, e.moved x, hx, h.enc, e.inStep_moved x, (e.moved_counts_one hstep x).2, by cases x <;> rfl, ?_⟩
  cases x <;> cases hab : e.lineA == e.lineB
  · exact Encoder.moved_reverse hstep (by simpa [Encoder.direction] using hab)
  · exact Encoder.moved_forward hstep (by simpa [Encoder.direction] using hab)
  · exact Encoder.moved_forward hstep (by simpa [Encoder.direction] using hab)
  · exact Encoder.moved_reverse hstep (by simpa [Encoder.direction] using hab)

/-! ### Several steps -/

/-- e' is e after n steps forward (-n in reverse), none of them invalid. -/
structure Encoder.Advances (e : Encoder) (n : Int) (e' : Encoder) : Prop where
  phase : e'.phase = e.phase + (n : Phase)
  count : e'.count = e.count + (n : BitVec 64)
  invCount : e'.invCount = e.invCount

theorem Encoder.Advances.trans {e e' e'' : Encoder} {m n : Int} (h : e.Advances m e') (h' : e'.Advances n e'') :
    e.Advances (m + n) e'' where
  phase := by rw [h'.phase, h.phase, Int.cast_add, add_assoc]
  count := by rw [h'.count, h.count, Int.cast_add, add_assoc]
  invCount := h'.invCount.trans h.invCount

theorem Encoder.advances_moved {e : Encoder} (h : e.inStep = true) (x : Line) :
    e.Advances (e.direction x) (e.moved x) where
  phase := e.phase_moved_eq h x
  count := by
    obtain hd | hd := e.direction_cases x
    · rw [(Encoder.moved_forward h hd).2.2, hd, Int.cast_one]
    · rw [(Encoder.moved_reverse h hd).2.2, hd, Int.cast_neg, Int.cast_one, sub_eq_add_neg]
  invCount := (e.moved_counts_one h x).2

/-- One line changed and then the other are two steps in the direction of the first. -/
theorem Encoder.advances_moved_moved {e : Encoder} (h : e.inStep = true) {x y : Line} (hxy : x ≠ y) :
    e.Advances (e.direction x + e.direction x) ((e.moved x).moved y) := by
  have hy := Encoder.advances_moved (e.inStep_moved x) y
  rw [e.direction_moved hxy] at hy
  exact (Encoder.advances_moved h x).trans hy

/-- Two steps in either direction move the phase by two. -/
theorem Encoder.phase_moved_other {e : Encoder} (h : e.inStep = true) {x y : Line} (hxy : x ≠ y) :
    ((e.moved x).moved y).phase = e.phase + 2 := by
  rw [(Encoder.advances_moved_moved h hxy).phase]
  obtain hd | hd := e.direction_cases x <;> rw [hd] <;> rfl

/-- Both lines changed and changed back in turn are four steps in the direction of the first. -/
theorem Encoder.advances_cycle {e : Encoder} (h : e.inStep = true) {x y : Line} (hxy : x ≠ y) :
    e.Advances (e.direction x + e.direction x + (e.direction x + e.direction x))
      ((((e.moved x).moved y).moved x).moved y) := by
  have hback := Encoder.advances_moved_moved ((e.moved x).inStep_moved y) hxy
  rw [Encoder.direction_moved _ hxy.symm, Encoder.direction_moved _ hxy] at hback
  exact (Encoder.advances_moved_moved h hxy).trans hback

/-! ### Two changes, decoded one at a time or both at once (R137) -/

@[simp] theorem Encoder.sel_moved (e : Encoder) (x y : Line) : (e.moved x).sel y = e.sel y := by
  cases x <;> cases y <;> rfl

theorem Encoder.level_moved_ne (e : Encoder) {x y : Line} (h : x ≠ y) : (e.moved x).level y = e.level y := by
  obtain ⟨rfl, rfl⟩ | ⟨rfl, rfl⟩ := Line.ne_cases h <;> rfl

/-- SAMPLE_X, DECODE_X where line X's changed level waits. -/
theorem execAll_sampleOf_decodeOf {s : State} {e : Encoder} {x : Line} (h : s.enc = some e) (hp : s.pend x = true)
    (hpin : s.pin (e.sel x) = !e.level x) (is : List Instr) :
    execAll (sampleOf x :: decodeOf x :: is) s =
      execAll is { (s.setPend false x).setDreq false x with enc := some (e.moved x) } := by
  rw [execAll_cons (exec_sampleOf x s), sampleStep_some h hp, hpin,
    execAll_cons (exec_decodeOf_some rfl (by rw [State.dreq_withEnc, State.dreq_setDreq]))]
  cases x <;> rfl

section
variable {s : State} {e : Encoder} (h : s.enc = some e) (hp : ∀ x, s.pend x = true)
  (hpin : ∀ x, s.pin (e.sel x) = !e.level x)
include h hp hpin

/-- Both lines' changes, one sampled and decoded and then the other. -/
theorem execAll_one_at_a_time {x y : Line} (hxy : x ≠ y) :
    ∃ t, execAll [sampleOf x, decodeOf x, sampleOf y, decodeOf y] s = .next t ∧
      t.enc = some ((e.moved x).moved y) := by
  rw [execAll_sampleOf_decodeOf h (hp x) (hpin x), execAll_sampleOf_decodeOf (e := e.moved x) rfl ?_ ?_]
  · exact ⟨_, rfl, rfl⟩
  · rw [State.pend_withEnc, State.pend_setDreq, State.pend_setPend_ne s false hxy, hp]
  · rw [e.sel_moved, e.level_moved_ne hxy, ← hpin]
    cases x <;> rfl

/-- Both lines' changes, sampled before either is decoded. -/
theorem sampleStep_both :
    sampleStep .b (sampleStep .a s) =
      { s with enc := some { e with lineA := !e.lineA, lineB := !e.lineB },
               pendA := false, pendB := false, dreqA := true, dreqB := true } := by
  have ha : s.pin e.selA = !e.lineA := hpin .a
  have hb : s.pin e.selB = !e.lineB := hpin .b
  rw [← ha, ← hb, sampleStep_some h (hp .a), sampleStep_some rfl (by exact hp .b)]
  rfl

end

/-- The encoder after both lines' changes were sampled and then decoded once. -/
def Encoder.movedBoth (e : Encoder) : Encoder := transition { e with lineA := !e.lineA, lineB := !e.lineB }

theorem phaseOf_not_not : ∀ a b, phaseOf (!a) (!b) = phaseOf a b + 2 := by decide

/-- From a phase in step, both lines changed move the phase by two. -/
theorem Encoder.phase_movedBoth {e : Encoder} (h : e.inStep = true) : e.movedBoth.phase = e.phase + 2 := by
  rw [e.inStep_iff.mp h]
  exact phaseOf_not_not e.lineA e.lineB

/-- Decoded after both samples, the changes are one invalid transition; the second decode finds the phase in step. -/
theorem Encoder.movedBoth_counts {e : Encoder} (h : e.inStep = true) :
    (transition e.movedBoth).count = e.count ∧ (transition e.movedBoth).invCount = e.invCount + 1 := by
  obtain ⟨hcount, hinv⟩ := transition_counts_invalid (e := { e with lineA := !e.lineA, lineB := !e.lineB })
    (Encoder.phase_movedBoth h)
  obtain ⟨-, hcount', hinv'⟩ := transition_of_inStep (e := e.movedBoth) (transition_inStep _)
  exact ⟨hcount'.trans hcount, hinv'.trans hinv⟩

/-- From phase 0 in step both lines are low, and a change of A is forward. -/
theorem Encoder.direction_a_of_phase_zero {e : Encoder} (h : e.inStep = true) (hp : e.phase = 0) :
    e.direction .a = 1 := by
  have hlines : ∀ a b, (0 : Phase) = phaseOf a b → a = b := by decide
  rw [Encoder.inStep_iff, hp] at h
  exact if_pos (hlines e.lineA e.lineB h)

/-- Settles O43: one at a time the changes are two steps in the direction of the first, and A's and B's directions are
opposite. -/
theorem doubleEdgeLosesTwoSteps : Obligations.DoubleEdgeLosesTwoSteps := by
  intro s e he hstep hpa hpb hla hlb
  have hp (x : Line) : s.pend x = true := by cases x <;> assumption
  have hpin (x : Line) : s.pin (e.sel x) = !e.level x := by cases x <;> assumption
  obtain ⟨u, hu, heu⟩ := execAll_one_at_a_time he hp hpin (x := .a) (y := .b) (by decide)
  obtain ⟨v, hv, hev⟩ := execAll_one_at_a_time he hp hpin (x := .b) (y := .a) (by decide)
  have hadvA := Encoder.advances_moved_moved hstep (x := .a) (y := .b) (by decide)
  have hadvB := Encoder.advances_moved_moved hstep (x := .b) (y := .a) (by decide)
  have hfwd (hd : e.direction .a = 1) : ((e.moved .a).moved .b).count = e.count + 2 ∧
      ((e.moved .b).moved .a).count = e.count - 2 := by
    rw [hadvA.count, hadvB.count, e.direction_b, hd, sub_eq_add_neg]
    exact ⟨rfl, rfl⟩
  have hrev (hd : e.direction .a = -1) : ((e.moved .a).moved .b).count = e.count - 2 ∧
      ((e.moved .b).moved .a).count = e.count + 2 := by
    rw [hadvA.count, hadvB.count, e.direction_b, hd, sub_eq_add_neg]
    exact ⟨rfl, rfl⟩
  have hboth : decodeStep .b (decodeStep .a (sampleStep .b (sampleStep .a s))) =
      { s with enc := some (transition e.movedBoth), pendA := false, pendB := false, dreqA := false,
               dreqB := false } := by
    rw [sampleStep_both he hp hpin, decodeStep_some rfl rfl, decodeStep_some rfl rfl]
    rfl
  obtain ⟨hcount, hinv⟩ := Encoder.movedBoth_counts hstep
  refine ⟨_, u, v, _, _, _, congrArg Host.Outcome.next hboth, rfl, hu, heu, hv, hev, hcount, hinv, hadvA.invCount,
    hadvB.invCount, ?_, fun h0 => hfwd (Encoder.direction_a_of_phase_zero hstep h0), Encoder.phase_movedBoth hstep,
    Encoder.phase_moved_other hstep (by decide), Encoder.phase_moved_other hstep (by decide)⟩
  exact (e.direction_cases .a).imp hfwd hrev

/-! ### A full cycle through the schedule (R132, V-SRC-7) -/

/-- The events of one change: PIN_X v, SAMPLE_X, DECODE_X. By evaluation the two cycles are four of these in a row. -/
def edgeEvents (v : Bool) (x : Line) : List Event :=
  [.code (encode (pinOf v x)), .code (encode (sampleOf x)), .code (encode (decodeOf x))]

/-- A scheduled instruction's code runs the instruction and is taken off the inbox. -/
theorem step_encode {s t : State} {i : Instr} {rest : List Event} (hs : s.inbox = .code (encode i) :: rest)
    (he : exec i { s with inbox := rest } = .next t) : step s = .next t ∧ t.inbox = rest :=
  ⟨(stepRunsDecodedInstruction.1 s _ rest i hs (decodeEncodeReturnsInstr i)).trans he,
    (effect_of_exec he).keeps_inbox_draws.1⟩

theorem core_run_succ {s t : State} (h : step s = .next t) (n : Nat) :
    Sys2Proof.core.run (n + 1) s = Sys2Proof.core.run n t := by
  have hs : Sys2Proof.core.step s = .next t := h
  simp only [Host.Core.run, hs]

/-- Taking events off the inbox changes nothing a line shows. -/
theorem State.Shows.withInbox {s : State} {x : Line} {e : Encoder} {w p d : Bool} (h : s.Shows x e w p d)
    (rest : List Event) : State.Shows { s with inbox := rest } x e w p d :=
  ⟨h.enc, h.pin, by cases x <;> exact h.pend, by cases x <;> exact h.dreq⟩

/-- PIN_X drives no pin but its own. -/
theorem exec_pinOf_pin_ne {s t : State} {e : Encoder} {x : Line} {v : Bool} (h : s.enc = some e)
    (ht : exec (pinOf v x) s = .next t) {m : LineIdx} (hm : e.sel x ≠ m) : t.pin m = s.pin m := by
  rw [exec_pinOf_some h] at ht
  cases ht
  rw [pinChange_pin, State.pin_drive_ne s v hm]

/-- Only the ENV drives pins. -/
theorem exec_pin_of_agent_ne_env {i : Instr} {s t : State} (ht : exec i s = .next t) (hi : i.agent ≠ .env)
    (m : LineIdx) : t.pin m = s.pin m :=
  State.pin_congr (by_contra fun hw => hi ((effect_of_exec ht).writes_pins hw)) m

theorem Encoder.sel_ne {e : Encoder} (h : e.selA ≠ e.selB) {x y : Line} (hxy : x ≠ y) : e.sel x ≠ e.sel y := by
  obtain ⟨rfl, rfl⟩ | ⟨rfl, rfl⟩ := Line.ne_cases hxy
  · exact h
  · exact h.symm

/-- Attached with encoder e, its lines different, the phase in step and both pins at the stored levels. -/
structure State.Rests (s : State) (e : Encoder) : Prop where
  enc : s.enc = some e
  lines : e.selA ≠ e.selB
  inStep : e.inStep = true
  levels : ∀ x, s.pin (e.sel x) = e.level x

/-- The scheduled events of one change are three steps of the machine, after which it rests with the change decoded. -/
theorem State.Rests.afterEdge {s : State} {e : Encoder} (h : s.Rests e) {x : Line} {v : Bool} {rest : List Event}
    (hv : v = !e.level x) (hin : s.inbox = edgeEvents v x ++ rest) :
    ∃ t, (∀ n, Sys2Proof.core.run (n + 3) s = Sys2Proof.core.run n t) ∧ t.Rests (e.moved x) ∧ t.inbox = rest := by
  subst hv
  have h₀ : s.Shows x e (e.level x) (s.pend x) (s.dreq x) := ⟨h.enc, h.levels x, rfl, rfl⟩
  obtain ⟨t₁, hx₁, h₁⟩ := (h₀.withInbox (edgeEvents (!e.level x) x ++ rest).tail).afterPin_not
  obtain ⟨hs₁, hin₁⟩ := step_encode hin hx₁
  obtain ⟨t₂, hx₂, h₂⟩ := (h₁.withInbox _).afterSample
  obtain ⟨hs₂, hin₂⟩ := step_encode hin₁ hx₂
  obtain ⟨t₃, hx₃, h₃⟩ := (h₂.withInbox _).afterDecode
  obtain ⟨hs₃, hin₃⟩ := step_encode hin₂ hx₃
  refine ⟨t₃, fun n => by rw [core_run_succ hs₁, core_run_succ hs₂, core_run_succ hs₃],
    ⟨h₃.enc, by cases x <;> exact h.lines, e.inStep_moved x, fun y => ?_⟩, hin₃⟩
  obtain rfl | hxy := eq_or_ne x y
  · rw [e.level_moved]
    exact h₃.pin
  · rw [e.level_moved_ne hxy, e.sel_moved, ← h.levels y]
    have hpin₁ := exec_pinOf_pin_ne (h₀.withInbox _).enc hx₁ (Encoder.sel_ne h.lines hxy)
    calc t₃.pin (e.sel y)
        = t₂.pin (e.sel y) := exec_pin_of_agent_ne_env hx₃ (by simp) _
      _ = t₁.pin (e.sel y) := exec_pin_of_agent_ne_env hx₂ (by cases x <;> decide) _
      _ = s.pin (e.sel y) := hpin₁

/-- The scheduled events of a cycle from both lines low, x first, are twelve steps of the machine and four steps of the
encoder in the direction of x. -/
theorem State.Rests.afterCycle {s : State} {e : Encoder} (h : s.Rests e) (hlow : ∀ x, e.level x = false) {x y : Line}
    (hxy : x ≠ y) {rest : List Event}
    (hin : s.inbox =
      edgeEvents true x ++ (edgeEvents true y ++ (edgeEvents false x ++ (edgeEvents false y ++ rest)))) :
    ∃ t e', Sys2Proof.core.run 12 s = .next t ∧ t.inbox = rest ∧ t.enc = some e' ∧
      e.Advances (e.direction x + e.direction x + (e.direction x + e.direction x)) e' := by
  obtain ⟨t₁, hr₁, h₁, hin₁⟩ := h.afterEdge (by simp [hlow]) hin
  obtain ⟨t₂, hr₂, h₂, hin₂⟩ := h₁.afterEdge (by simp [Encoder.level_moved_ne _ hxy, hlow]) hin₁
  obtain ⟨t₃, hr₃, h₃, hin₃⟩ := h₂.afterEdge (by simp [Encoder.level_moved_ne _ hxy.symm, hlow]) hin₂
  obtain ⟨t₄, hr₄, h₄, hin₄⟩ := h₃.afterEdge (by simp [Encoder.level_moved_ne _ hxy, hlow]) hin₃
  exact ⟨t₄, _, by rw [hr₁ 9, hr₂ 6, hr₃ 3, hr₄ 0]; rfl, hin₄, h₄.enc, Encoder.advances_cycle h.inStep hxy⟩

/-- Settles O47: each change of the cycle is three steps of the machine and one step in the cycle's direction, which
is that of its first change: A's, or the opposite one of B's. -/
theorem fullCycleCountsFour : Obligations.FullCycleCountsFour := by
  intro s e rest he hne hla hlb hphase hpa hpb _
  have hstep : e.inStep = true := by rw [Encoder.inStep_iff, hphase, hla, hlb]; rfl
  have hlow (x : Line) : e.level x = false := by cases x <;> assumption
  have hrests : s.Rests e := ⟨he, hne, hstep, fun x => by rw [hlow]; cases x <;> assumption⟩
  have hda : e.direction .a = 1 := Encoder.direction_a_of_phase_zero hstep hphase
  refine ⟨fun hin => ?_, fun hin => ?_⟩
  · obtain ⟨t, e', hr, hrest, ht, hadv⟩ := hrests.afterCycle (x := .a) (y := .b) hlow (by decide) hin
    rw [hda] at hadv
    exact ⟨t, e', hr, hrest, ht, hadv.count, hadv.invCount, by rw [hadv.phase, hphase]; rfl⟩
  · obtain ⟨t, e', hr, hrest, ht, hadv⟩ := hrests.afterCycle (x := .b) (y := .a) hlow (by decide) hin
    rw [e.direction_b, hda] at hadv
    exact ⟨t, e', hr, hrest, ht, by rw [hadv.count, sub_eq_add_neg]; rfl, hadv.invCount,
      by rw [hadv.phase, hphase]; rfl⟩

end Sys2Proof.Machine

/-! SUPPORT. The machine with both lines inverted and the other pull mode does the same (41_decoder.md R134): each
operation commutes with the inversion. -/

namespace Sys2Proof.Machine

/-! ### The inverted state -/

@[simp] theorem State.inverted_enc (s : State) : s.inverted.enc = s.enc.map Encoder.inverted := rfl
@[simp] theorem State.inverted_att (s : State) : s.inverted.att = s.att := by simp [State.att]
@[simp] theorem State.inverted_pend (s : State) (x : Line) : s.inverted.pend x = s.pend x := by cases x <;> rfl
@[simp] theorem State.inverted_dreq (s : State) (x : Line) : s.inverted.dreq x = s.dreq x := by cases x <;> rfl
@[simp] theorem Encoder.inverted_sel (e : Encoder) (x : Line) : e.inverted.sel x = e.sel x := by cases x <;> rfl

@[simp] theorem State.inverted_pin (s : State) (l : LineIdx) : s.inverted.pin l = !s.pin l := by
  simp [State.inverted, State.pin]

theorem State.inverted_enc_none {s : State} (h : s.enc = none) : s.inverted.enc = none := by simp [h]

theorem State.inverted_enc_some {s : State} {e : Encoder} (h : s.enc = some e) :
    s.inverted.enc = some e.inverted := by simp [h]

theorem State.inverted_setPend (s : State) (v : Bool) (x : Line) :
    s.inverted.setPend v x = (s.setPend v x).inverted := by cases x <;> rfl

theorem State.inverted_setDreq (s : State) (v : Bool) (x : Line) :
    s.inverted.setDreq v x = (s.setDreq v x).inverted := by cases x <;> rfl

theorem State.inverted_drive (s : State) (l : LineIdx) (v : Bool) :
    s.inverted.drive l (!v) = (s.drive l v).inverted := by
  simp [State.inverted, State.drive]

/-! ### The inverted encoder -/

theorem Encoder.inverted_setLevel (e : Encoder) (v : Bool) (x : Line) :
    e.inverted.setLevel (!v) x = (e.setLevel v x).inverted := by cases x <;> rfl

theorem Encoder.inverted_seed (e : Encoder) (a b : Bool) : e.inverted.seed (!a) (!b) = (e.seed a b).inverted := by
  simp [Encoder.seed, Encoder.inverted, phaseOf_not_not]

/-- A class depends on the difference of the phases, which both move by two. -/
theorem classify_delta_add_two : ∀ p q : Phase, classify (delta (p + 2#2) (q + 2#2)) = classify (delta p q) := by decide

theorem Encoder.inverted_transition (e : Encoder) : transition e.inverted = (transition e).inverted := by
  simp [transition, Encoder.inverted, phaseOf_not_not, classify_delta_add_two]

/-! ### The operations -/

theorem State.inverted_whileAttached (s : State) {f g : Encoder → State}
    (h : ∀ e, s.enc = some e → f e.inverted = (g e).inverted) :
    s.inverted.whileAttached f = (s.whileAttached g).inverted := by
  obtain he | ⟨e, he⟩ := s.enc.eq_none_or_eq_some
  · rw [State.whileAttached_none he, State.whileAttached_none (State.inverted_enc_none he)]; rfl
  · rw [State.whileAttached_some he, State.whileAttached_some (State.inverted_enc_some he), h e he]

/-- A read of what the inversion leaves alone. -/
theorem State.inverted_answer (s : State) {f : Encoder → Data} (h : ∀ e : Encoder, f e.inverted = f e) :
    s.inverted.answer f = (s.answer f).inverted :=
  s.inverted_whileAttached fun e _ => congrArg s.inverted.respond (h e)

theorem inverted_reseed (s : State) : reseed s.inverted = (reseed s).inverted :=
  s.inverted_whileAttached fun e _ => by
    have hseed : e.inverted.seed (s.inverted.pin e.selA) (s.inverted.pin e.selB) =
        (e.seed (s.pin e.selA) (s.pin e.selB)).inverted := by
      rw [State.inverted_pin, State.inverted_pin, Encoder.inverted_seed]
    exact congrArg (fun e' => State.respond { s.inverted with enc := some e' } 0) hseed

theorem inverted_teardown (s : State) : teardown s.inverted = (teardown s).inverted :=
  s.inverted_whileAttached fun _ _ => rfl

theorem inverted_attach (p : Params) (la lb : LineIdx) (pull : Bool) (imm : BitVec 16) (s : State) :
    attach p la lb (!pull) imm s.inverted = (attach p la lb pull imm s).inverted := by
  obtain he | ⟨e, he⟩ := s.enc.eq_none_or_eq_some
  · cases ha : argsOk p.numLines la lb with
    | false => simp only [attach, he, State.inverted_enc_none he, ha]; rfl
    | true => simp only [attach, he, State.inverted_enc_none he, ha, State.inverted_pin, phaseOf_not_not]; rfl
  · simp only [attach, he, State.inverted_enc_some he]; rfl

theorem inverted_notifyStep (p : Params) (x : Line) (s : State) :
    notifyStep p x s.inverted = (notifyStep p x s).inverted := by
  rw [notifyStep, State.inverted_att, State.inverted_setPend, ← apply_ite]
  rfl

theorem inverted_sampleStep (x : Line) (s : State) : sampleStep x s.inverted = (sampleStep x s).inverted := by
  obtain ⟨hoff, h⟩ | ⟨e, he, hp, h⟩ := sampleStep_cases x s
  · rw [h, sampleStep_disabled]
    rwa [State.inverted_att, State.inverted_pend, State.att_and_eq_false_iff]
  · rw [h, sampleStep_some (State.inverted_enc_some he) (by rwa [State.inverted_pend])]
    rw [State.inverted_setPend, State.inverted_setDreq, Encoder.inverted_sel, State.inverted_pin,
      Encoder.inverted_setLevel]
    rfl

theorem inverted_decodeStep (x : Line) (s : State) : decodeStep x s.inverted = (decodeStep x s).inverted := by
  obtain ⟨hoff, h⟩ | ⟨e, he, hd, h⟩ := decodeStep_cases x s
  · rw [h, decodeStep_disabled]
    rwa [State.inverted_att, State.inverted_dreq, State.att_and_eq_false_iff]
  · rw [h, decodeStep_some (State.inverted_enc_some he) (by rwa [State.inverted_dreq])]
    rw [State.inverted_setDreq, Encoder.inverted_transition]
    rfl

theorem inverted_pinChange (p : Params) (l : LineIdx) (v lose : Bool) (s : State) :
    pinChange p l (!v) lose s.inverted = (pinChange p l v lose s).inverted := by
  obtain he | ⟨e, he⟩ := s.enc.eq_none_or_eq_some
  · rw [pinChange_none he, pinChange_none (State.inverted_enc_none he), State.inverted_drive]
  · rw [pinChange_some he, pinChange_some (State.inverted_enc_some he), State.inverted_drive]
    rw [State.inverted_pin, Bool.not_bne_not]
    rfl

theorem inverted_pinLineStep (x : Line) (v : Bool) (s : State) :
    pinLineStep Config.params x (!v) s.inverted = (pinLineStep Config.params x v s).inverted := by
  obtain he | ⟨e, he⟩ := s.enc.eq_none_or_eq_some
  · rw [pinLineStep_none he, pinLineStep_none (State.inverted_enc_none he)]
  · rw [pinLineStep_some he, pinLineStep_some (State.inverted_enc_some he), Encoder.inverted_sel, pinStep_params,
      pinStep_params, inverted_pinChange]

/-- Settles O44, each instruction by its operation. -/
theorem invertedWiringCountsTheSame : Obligations.InvertedWiringCountsTheSame := by
  intro i s t hi h
  cases i with
  | getStatus => exact absurd rfl hi
  | construct la lb p imm => cases h; exact congrArg _ (inverted_attach Config.params la lb p imm s)
  | reset => cases h; exact congrArg _ (inverted_reseed s)
  | setSpr n => cases h; exact congrArg _ (s.inverted_whileAttached fun _ _ => rfl)
  | getSpr | getCount | getTurns | getInvalid => cases h; exact congrArg _ (s.inverted_answer fun _ => rfl)
  | detach => cases h; exact congrArg _ (inverted_teardown s)
  | notifyA => cases h; exact congrArg _ (inverted_notifyStep Config.params .a s)
  | notifyB => cases h; exact congrArg _ (inverted_notifyStep Config.params .b s)
  | sampleA => cases h; exact congrArg _ (inverted_sampleStep .a s)
  | sampleB => cases h; exact congrArg _ (inverted_sampleStep .b s)
  | decodeA => cases h; exact congrArg _ (inverted_decodeStep .a s)
  | decodeB => cases h; exact congrArg _ (inverted_decodeStep .b s)
  | pinA v => cases h; exact congrArg _ (inverted_pinLineStep .a v s)
  | pinB v => cases h; exact congrArg _ (inverted_pinLineStep .b v s)

end Sys2Proof.Machine

/-! SUPPORT. The host commands: what each writes, its words that are illegal, and its errors (42_commands.md R140 to
R151, R153). -/

namespace Sys2Proof.Machine

/-! ### Illegal words (30_encoding.md R73, R74) -/

/-- Settles O13: a word that fits no row decodes to no command. -/
theorem illegalWordAnswersErrIllegal : Obligations.IllegalWordAnswersErrIllegal := by
  refine ⟨fun s w rest hs hnone => ?_, illegal_examples_fit_no_row _ (by decide)⟩
  have hdec := (commandRowsByMaskAndMatch.2.2 w).mp hnone
  exact (step_cons hs).trans (runEvent_cmd_illegal hdec _)

/-- A word of CONSTRUCT with a bit of RSV set is illegal. -/
theorem decodeCmd_ne_ok_of_rsv {w : CmdWord} (hop : w.extractLsb' 28 4 = 1#4) (hrsv : w.extractLsb' 17 3 ≠ 0#3)
    (i : Instr) : decodeCmd w ≠ .ok i := by
  intro hd
  obtain ⟨-, h, -⟩ | ⟨h, -⟩ | ⟨-, hmem⟩ := decodeCmd_ok hd
  · exact hrsv h
  · simp [hop] at h
  · simp [hop] at hmem

/-- A word of SET_SPR with a bit between OP and IMM16 set is illegal. -/
theorem decodeCmd_ne_ok_of_middle {w : CmdWord} (hop : w.extractLsb' 28 4 = 3#4) (hmid : w.extractLsb' 16 12 ≠ 0#12)
    (i : Instr) : decodeCmd w ≠ .ok i := by
  intro hd
  obtain ⟨h, -⟩ | ⟨-, h, -⟩ | ⟨-, hmem⟩ := decodeCmd_ok hd
  · simp [hop] at h
  · exact hmid h
  · simp [hop] at hmem

/-! ### The commands that need att = 1 (R140) -/

section
variable {i : Instr} {f : State → Encoder → State} (hi : ∀ s, exec i s = .next (s.whileAttached (f s)))
include hi

theorem exec_whileAttached_none {s : State} (h : s.enc = none) : exec i s = .next (s.raise .errState) := by
  rw [hi, State.whileAttached_none h]

theorem exec_whileAttached_some {s : State} {e : Encoder} (h : s.enc = some e) : exec i s = .next (f s e) := by
  rw [hi, State.whileAttached_some h]

/-- Such a command without operands: its OP alone is its word, and the OPs of CONSTRUCT and SET_SPR are no such. -/
theorem needsAttachAndZeros {op : BitVec 4} (hdec : decode (.cmd (op ++ 0#28)) = .ok i) (h1 : op ≠ 1#4)
    (h3 : op ≠ 3#4) : NeedsAttachAndZeros op i := by
  refine ⟨hdec, fun w s hop hlow => ?_, fun s hs => exec_whileAttached_none hi hs⟩
  exact runEvent_cmd_illegal (decodeCmd_ne_ok_of_low28 (hop ▸ h1) (hop ▸ h3) hlow) s

end

/-- Settles O18: attached, RESET seeds the encoder from the pins. -/
theorem resetReseedsAndZeroes : Obligations.ResetReseedsAndZeroes :=
  ⟨needsAttachAndZeros (fun _ => rfl) (by decide) (by decide) (by decide),
    fun _ _ h => congrArg Host.Outcome.next (State.whileAttached_some h _)⟩

/-- Settles O19: the fields of 0x3000 before n, and SET_SPR attached and detached. -/
theorem setSprStoresAnyValue : Obligations.SetSprStoresAnyValue := by
  have hi (n : BitVec 16) (s : State) : exec (.setSpr n) s =
      .next (s.whileAttached fun e => ({ s with enc := some { e with spr := n } } : State).respond 0) := rfl
  refine ⟨fun n => ?_, fun w s hop hmid => runEvent_cmd_illegal (decodeCmd_ne_ok_of_middle hop hmid) s,
    fun s n h => exec_whileAttached_none (hi n) h, fun s e n h => exec_whileAttached_some (hi n) h⟩
  have hop : (0x3000#16 ++ n).extractLsb' 28 4 = 3#4 := BitVec.extractLsb'_append_eq_of_le (by decide)
  have hmid : (0x3000#16 ++ n).extractLsb' 16 12 = 0#12 := BitVec.extractLsb'_append_eq_of_le (by decide)
  have himm : (0x3000#16 ++ n).extractLsb' 0 16 = n :=
    (BitVec.extractLsb'_append_eq_of_add_le (by decide)).trans BitVec.extractLsb'_eq_self
  exact (decodeCmd_setSpr hop hmid).trans (by rw [himm])

/-- A read, attached, answers what it computes. -/
theorem exec_answer_some {i : Instr} {f : Encoder → Data} (hi : ∀ s, exec i s = .next (s.answer f)) {s : State}
    {e : Encoder} (h : s.enc = some e) {d : Data} (hd : f e = d) : exec i s = .next { s with rsp := some ⟨.ok, d⟩ } := by
  rw [exec_whileAttached_some hi h, hd]
  rfl

/-- Settles O20: GET_SPR reads spr. -/
theorem getSprAnswersSpr : Obligations.GetSprAnswersSpr :=
  ⟨needsAttachAndZeros (fun _ => rfl) (by decide) (by decide) (by decide),
    fun _ e h => exec_answer_some (fun _ => rfl) h (BitVec.ofNat_toNat 64 e.spr).symm⟩

/-- Settles O21: GET_COUNT reads count. -/
theorem getCountAnswersCount : Obligations.GetCountAnswersCount :=
  ⟨needsAttachAndZeros (fun _ => rfl) (by decide) (by decide) (by decide), fun _ _ h => exec_getCount_some h⟩

/-- Settles O22: GET_INVALID reads invCount. -/
theorem getInvalidAnswersInvCount : Obligations.GetInvalidAnswersInvCount :=
  ⟨needsAttachAndZeros (fun _ => rfl) (by decide) (by decide) (by decide),
    fun _ e h => exec_answer_some (fun _ => rfl) h (BitVec.ofNat_toNat 64 e.invCount).symm⟩

/-- Settles O23: GET_TURNS reads the quotient, spr = 0 or not. -/
theorem getTurnsAnswersTurns : Obligations.GetTurnsAnswersTurns :=
  ⟨needsAttachAndZeros (fun _ => rfl) (by decide) (by decide) (by decide),
    fun _ e h => exec_answer_some (fun _ => rfl) h (BitVec.ofNat_toNat 64 (turns32 _ e.count e.spr)).symm⟩

/-- Settles O25: attached, DETACH takes the encoder and the flags away. -/
theorem detachTearsDown : Obligations.DetachTearsDown :=
  ⟨needsAttachAndZeros (fun _ => rfl) (by decide) (by decide) (by decide),
    fun _ _ h => congrArg Host.Outcome.next (State.whileAttached_some h _)⟩

/-! ### CONSTRUCT (R141) -/

theorem argsOk_eq_true {n : Nat} {la lb : LineIdx} (ha : la.toNat < n) (hb : lb.toNat < n) (hne : la ≠ lb) :
    argsOk n la lb = true := by
  simp [argsOk, ha, hb, hne]

theorem argsOk_eq_false {n : Nat} {la lb : LineIdx} (h : n ≤ la.toNat ∨ n ≤ lb.toNat ∨ la = lb) :
    argsOk n la lb = false := by
  obtain h | h | rfl := h
  · simp [argsOk, Nat.not_lt.mpr h]
  · simp [argsOk, Nat.not_lt.mpr h]
  · simp [argsOk]

section
variable {s : State} (p : Params) {la lb : LineIdx} (pull : Bool) (imm : BitVec 16)

theorem attach_attached (h : s.enc ≠ none) : attach p la lb pull imm s = s.raise .errState := by
  obtain ⟨-, hs⟩ | ⟨hn, -⟩ | ⟨hn, -⟩ := attach_cases p la lb pull imm s
  · exact hs
  · exact absurd hn h
  · exact absurd hn h

theorem attach_of_argsOk_false (h : s.enc = none) (ha : argsOk p.numLines la lb = false) :
    attach p la lb pull imm s = s.raise .errArg := by
  obtain ⟨hn, -⟩ | ⟨-, -, hs⟩ | ⟨-, ha', -⟩ := attach_cases p la lb pull imm s
  · exact absurd h hn
  · exact hs
  · simp [ha] at ha'

end

/-- Settles O16: the cases of CONSTRUCT by its state and its arguments, and its word by RSV. -/
theorem constructAttachesAndSeeds : Obligations.ConstructAttachesAndSeeds := by
  refine ⟨fun w hop => ⟨decodeCmd_construct hop,
    fun hrsv s => runEvent_cmd_illegal (decodeCmd_ne_ok_of_rsv hop hrsv) s⟩, fun s la lb p imm =>
    ⟨fun hs ha hb hne => ?_, fun hs => congrArg Host.Outcome.next (attach_attached _ p imm hs),
     fun hs h => congrArg Host.Outcome.next (attach_of_argsOk_false _ p imm hs (argsOk_eq_false h)), rfl,
     fun q hs h => attach_of_argsOk_false q p imm hs (argsOk_eq_false h)⟩⟩
  obtain ⟨hn, -⟩ | ⟨-, hbad, -⟩ | ⟨-, -, h⟩ := attach_cases Config.params la lb p imm s
  · exact absurd hs hn
  · cases hbad.symm.trans (argsOk_eq_true ha hb hne)
  · exact congrArg Host.Outcome.next h

/-! ### The writers of count (R153) -/

/-- Settles O28: of a host command's effects CONSTRUCT's and RESET's alone leave another count, and both seed the
phase from the pins, which they do not drive. -/
theorem countIsZeroedOnlyWithReseed : Obligations.CountIsZeroedOnlyWithReseed := by
  intro i s t e' hi hexec ht hcount
  cases effect_of_exec hexec with
  | kept hne => exact absurd hi hne
  | replied => exact absurd rfl (hcount e' ht)
  | constructed => cases ht; exact ⟨.inl ⟨_, _, _, _, rfl⟩, rfl, rfl, rfl⟩
  | reseeded => cases ht; exact ⟨.inr rfl, rfl, rfl, rfl⟩
  | sprSet h n => cases ht; exact absurd (by rfl) (hcount _ h)
  | tornDown => cases ht
  | notified _ x | sampled _ x | decoded _ x | driven _ x => cases x <;> cases hi

/-! ### RESET before a change of a line (R142, V-SRC-4) -/

/-- After a RESET the phase is in step, the counts are 0, and line x's pin is at its stored level. -/
theorem exec_reset_shows {s : State} {e : Encoder} (h : s.enc = some e) (x : Line) :
    ∃ t e₁, exec .reset s = .next t ∧ t.Shows x e₁ (e₁.level x) (s.pend x) (s.dreq x) ∧
      e₁.level x = s.pin (e.sel x) ∧ e₁.inStep = true ∧ e₁.count = 0 ∧ e₁.invCount = 0 := by
  refine ⟨_, e.seed (s.pin e.selA) (s.pin e.selB), resetReseedsAndZeroes.2 s e h, ⟨rfl, ?_, ?_, ?_⟩, ?_,
    e.inStep_seed _ _, rfl, rfl⟩ <;> cases x <;> rfl

/-- Settles O45: RESET brings the phase in step with the pins, so the change moves it by one, up or down, from
count 0. -/
theorem firstStepAfterResetIsOneStep : Obligations.FirstStepAfterResetIsOneStep := by
  intro s e x he _
  obtain ⟨t₁, e₁, hx₁, h₁, hlevel, hstep, hcount₁, hinv₁⟩ := exec_reset_shows he x
  obtain ⟨t₂, hx₂, h₂⟩ := h₁.afterPin_not
  obtain ⟨t₃, hx₃, h₃⟩ := h₂.afterSampleDecode
  rw [← hlevel]
  refine ⟨t₃, e₁.moved x, by rw [execAll_cons hx₁, execAll_cons hx₂, hx₃], h₃.enc, ?_,
    (e₁.moved_counts_one hstep x).2.trans hinv₁⟩
  refine (e₁.direction_cases x).imp (fun hd => ?_) fun hd => ?_
  · obtain ⟨hclass, -, hcount⟩ := e₁.moved_forward hstep hd
    exact ⟨by rw [hcount, hcount₁]; rfl, hclass⟩
  · obtain ⟨hclass, -, hcount⟩ := e₁.moved_reverse hstep hd
    exact ⟨by rw [hcount, hcount₁]; rfl, hclass⟩

end Sys2Proof.Machine

/-! SUPPORT. The arithmetic of GET_TURNS rounds correctly (42_commands.md R147; 93_implementation_defined.md G1). -/

namespace Sys2Proof.Machine

/-! ### Powers of two as fractions -/

/-- The rational value sig · 2^exp. -/
def PosFloat.value (f : PosFloat) : ℚ := f.sig * 2 ^ f.exp

theorem two_zpow_eq_div (e : ℤ) : (2 : ℚ) ^ e = 2 ^ e.toNat / 2 ^ (-e).toNat := by
  rw [← zpow_natCast, ← zpow_natCast, ← zpow_sub₀ two_ne_zero, Int.toNat_sub_toNat_neg]

theorem PosFloat.num_div_den (f : PosFloat) : (f.num : ℚ) / f.den = f.value := by
  rw [PosFloat.value, two_zpow_eq_div, PosFloat.num, PosFloat.den]
  push_cast
  rw [mul_div_assoc]

theorem PosFloat.den_ne_zero (f : PosFloat) : f.den ≠ 0 := (Nat.two_pow_pos _).ne'

theorem scaledDen_ne_zero {d : ℕ} (hd : d ≠ 0) (e : ℤ) : scaledDen d e ≠ 0 :=
  Nat.mul_ne_zero hd (Nat.two_pow_pos _).ne'

theorem scaledNum_div_scaledDen (n d : ℕ) (e : ℤ) : (scaledNum n e : ℚ) / scaledDen d e = n / d / 2 ^ e := by
  rw [two_zpow_eq_div, scaledNum, scaledDen]
  push_cast
  rw [mul_div_mul_comm, div_eq_mul_inv (n / d : ℚ), inv_div]

/-! ### Rounding to an integer -/

/-- A fraction is its quotient and the remainder's part of the divisor, which is less than 1. -/
theorem div_eq_quotient_add (n : ℕ) {d : ℕ} (hd : d ≠ 0) :
    (n / d : ℚ) = (n / d : ℕ) + (n % d : ℕ) / (d : ℚ) ∧ ((n % d : ℕ) / (d : ℚ)) < 1 := by
  have hpos : (0 : ℚ) < d := by exact_mod_cast Nat.pos_of_ne_zero hd
  refine ⟨?_, (div_lt_one hpos).mpr (by exact_mod_cast Nat.mod_lt n (Nat.pos_of_ne_zero hd))⟩
  rw [eq_comm, eq_div_iff hpos.ne', add_mul, div_mul_cancel₀ _ hpos.ne']
  exact_mod_cast Nat.div_add_mod' n d

/-- A fraction by its numerator's double against one half. -/
theorem div_cmp_half (r : ℕ) {d : ℕ} (hd : d ≠ 0) :
    (2 * r < d ∧ (r / d : ℚ) < 1 / 2) ∨ (2 * r = d ∧ (r / d : ℚ) = 1 / 2) ∨ (d < 2 * r ∧ 1 / 2 < (r / d : ℚ)) := by
  have hpos : (0 : ℚ) < d := by exact_mod_cast Nat.pos_of_ne_zero hd
  rw [div_lt_div_iff₀ hpos two_pos, div_eq_div_iff hpos.ne' two_ne_zero, div_lt_div_iff₀ two_pos hpos, one_mul]
  norm_cast
  omega

/-- The rounded integer is within one half, and where it is one half away it is even. -/
theorem roundHalfEven_dist (n : ℕ) {d : ℕ} (hd : d ≠ 0) :
    |(n / d : ℚ) - roundHalfEven n d| < 1 / 2 ∨
    |(n / d : ℚ) - roundHalfEven n d| = 1 / 2 ∧ roundHalfEven n d % 2 = 0 := by
  obtain ⟨hx, hlt⟩ := div_eq_quotient_add n hd
  have hnonneg : (0 : ℚ) ≤ (n % d : ℕ) / (d : ℚ) := by positivity
  rw [hx]
  obtain ⟨h, hhalf⟩ | ⟨h, hhalf⟩ | ⟨h, hhalf⟩ := div_cmp_half (n % d) hd
  · have hr : roundHalfEven n d = n / d := if_pos h
    rw [hr, add_sub_cancel_left, abs_of_nonneg hnonneg]
    exact .inl hhalf
  · have hr : roundHalfEven n d = n / d + n / d % 2 := by simp [roundHalfEven, h]
    refine .inr ⟨?_, by omega⟩
    rw [hr, hhalf]
    obtain hq | hq := Nat.mod_two_eq_zero_or_one (n / d) <;> rw [hq] <;> push_cast
    · rw [add_zero, add_sub_cancel_left, abs_of_pos one_half_pos]
    · rw [add_sub_add_left_eq_sub, abs_of_neg] <;> norm_num
  · have hr : roundHalfEven n d = n / d + 1 := by simp [roundHalfEven, h, Nat.not_lt.mpr h.le]
    rw [hr, Nat.cast_add, Nat.cast_one, add_sub_add_left_eq_sub, abs_sub_lt_iff]
    exact .inl ⟨by linarith, by linarith⟩

/-- No integer is nearer than the rounded one, and another is as near only where the rounded one is even. -/
theorem roundHalfEven_nearest (n : ℕ) {d : ℕ} (hd : d ≠ 0) (N : ℤ) :
    |(n / d : ℚ) - roundHalfEven n d| ≤ |(n / d : ℚ) - N| ∧
    (|(n / d : ℚ) - roundHalfEven n d| = |(n / d : ℚ) - N| → N = roundHalfEven n d ∨ roundHalfEven n d % 2 = 0) := by
  obtain rfl | hne := eq_or_ne N (roundHalfEven n d)
  · exact ⟨le_rfl, fun _ => .inl rfl⟩
  · have hone : (1 : ℚ) ≤ |(N : ℚ) - roundHalfEven n d| := by
      exact_mod_cast Int.one_le_abs (sub_ne_zero.mpr hne)
    have htri := abs_sub_le (N : ℚ) (n / d) (roundHalfEven n d)
    rw [abs_sub_comm (N : ℚ) (n / d)] at htri
    obtain h | ⟨h, heven⟩ := roundHalfEven_dist n hd
    · exact ⟨by linarith, fun _ => by linarith⟩
    · exact ⟨by linarith, fun _ => .inr heven⟩

/-! ### The exponent of a 24-bit significand -/

theorem le_scaled_iff (n : ℕ) {d : ℕ} (hd : d ≠ 0) (e : ℤ) :
    2 ^ 23 * scaledDen d e ≤ scaledNum n e ↔ (2 : ℚ) ^ (e + 23) ≤ n / d := by
  have hden : (0 : ℚ) < scaledDen d e := by exact_mod_cast Nat.pos_of_ne_zero (scaledDen_ne_zero hd e)
  rw [add_comm, zpow_add₀ two_ne_zero, ← le_div_iff₀ (zpow_pos two_pos e), ← scaledNum_div_scaledDen,
    le_div_iff₀ hden]
  exact_mod_cast Iff.rfl

/-- The exponent the terms' logarithms give is right or one too large. -/
theorem div_bounds_of_log2 {n d : ℕ} (hn : n ≠ 0) (hd : d ≠ 0) {e : ℤ} (he : (n.log2 : ℤ) - d.log2 - 23 = e) :
    (2 : ℚ) ^ (e - 1 + 23) ≤ n / d ∧ (n / d : ℚ) < 2 ^ (e + 24) := by
  have hpos : (0 : ℚ) < d := by exact_mod_cast Nat.pos_of_ne_zero hd
  have hn₁ : (2 : ℚ) ^ (n.log2 : ℤ) ≤ n := by exact_mod_cast Nat.log2_self_le hn
  have hn₂ : (n : ℚ) < 2 ^ ((n.log2 : ℤ) + 1) := by exact_mod_cast Nat.lt_log2_self (n := n)
  have hd₁ : (2 : ℚ) ^ (d.log2 : ℤ) ≤ d := by exact_mod_cast Nat.log2_self_le hd
  have hd₂ : (d : ℚ) < 2 ^ ((d.log2 : ℤ) + 1) := by exact_mod_cast Nat.lt_log2_self (n := d)
  have hlow : e - 1 + 23 = (n.log2 : ℤ) - ((d.log2 : ℤ) + 1) := by omega
  have hhigh : e + 24 = ((n.log2 : ℤ) + 1) - (d.log2 : ℤ) := by omega
  rw [hlow, hhigh, zpow_sub₀ two_ne_zero, zpow_sub₀ two_ne_zero]
  exact ⟨div_le_div₀ (by positivity) hn₁ hpos hd₂.le, div_lt_div₀ hn₂ hd₁ (by positivity) (by positivity)⟩

/-- The exponent leaves a significand of 24 bits. -/
theorem leadExp_bounds {n d : ℕ} (hn : n ≠ 0) (hd : d ≠ 0) :
    (2 : ℚ) ^ (leadExp n d + 23) ≤ n / d ∧ (n / d : ℚ) < 2 ^ (leadExp n d + 24) := by
  simp only [leadExp, le_scaled_iff n hd]
  generalize he : (n.log2 : ℤ) - d.log2 - 23 = e
  obtain ⟨hlow, hhigh⟩ := div_bounds_of_log2 hn hd he
  split
  · next h => exact ⟨h, hhigh⟩
  · next h =>
    have hexp : e - 1 + 24 = e + 23 := by omega
    exact ⟨hlow, hexp ▸ not_le.mp h⟩

/-- The same with the exponent taken apart. -/
theorem mul_leadExp_bounds {n d : ℕ} (hn : n ≠ 0) (hd : d ≠ 0) :
    (2 ^ 23 * 2 ^ leadExp n d : ℚ) ≤ n / d ∧ (n / d : ℚ) < 2 ^ 24 * 2 ^ leadExp n d := by
  have h := leadExp_bounds hn hd
  rw [add_comm, zpow_add₀ two_ne_zero, add_comm, zpow_add₀ two_ne_zero] at h
  exact_mod_cast h

/-! ### Rounding to 24 significant bits -/

/-- The integer the rounding makes of the scaled value; it may be 2^24, one bit too long. -/
def leadSig (n d : ℕ) : ℕ := roundHalfEven (scaledNum n (leadExp n d)) (scaledDen d (leadExp n d))

theorem roundToBinary32_eq (n d : ℕ) :
    roundToBinary32 n d =
      if leadSig n d = 2 ^ 24 then { sig := 2 ^ 23, exp := leadExp n d + 1 }
      else { sig := leadSig n d, exp := leadExp n d } := rfl

theorem roundToBinary32_value (n d : ℕ) : (roundToBinary32 n d).value = leadSig n d * 2 ^ leadExp n d := by
  rw [roundToBinary32_eq]
  split
  · next h => rw [PosFloat.value, h, zpow_add_one₀ two_ne_zero]; push_cast; ring
  · rfl

theorem roundToBinary32_sig_even {n d : ℕ} (h : leadSig n d % 2 = 0) : (roundToBinary32 n d).sig % 2 = 0 := by
  rw [roundToBinary32_eq]
  split
  · exact Nat.even_iff.mp ⟨2 ^ 22, rfl⟩
  · exact h

/-- What is no further from x than a value below it is not below that value. -/
theorem le_of_dist_le {x f c : ℚ} (h : |x - f| ≤ |x - c|) (hc : c ≤ x) : c ≤ f := by
  rw [abs_of_nonneg (sub_nonneg.mpr hc)] at h
  linarith [le_abs_self (x - f)]

/-- What is no further from x than a value above it is not above that value. -/
theorem ge_of_dist_le {x f c : ℚ} (h : |x - f| ≤ |x - c|) (hc : x ≤ c) : f ≤ c := by
  rw [abs_of_nonpos (sub_nonpos.mpr hc)] at h
  linarith [neg_abs_le (x - f)]

section
variable {n d : ℕ} (hn : n ≠ 0) (hd : d ≠ 0)

include hd in
/-- Among the multiples of 2^leadExp the rounded value is the nearest. -/
theorem leadSig_nearest (N : ℤ) :
    |(n / d : ℚ) - (roundToBinary32 n d).value| ≤ |(n / d : ℚ) - N * 2 ^ leadExp n d| ∧
    (|(n / d : ℚ) - (roundToBinary32 n d).value| = |(n / d : ℚ) - N * 2 ^ leadExp n d| →
      N = leadSig n d ∨ leadSig n d % 2 = 0) := by
  have hpos : (0 : ℚ) < 2 ^ leadExp n d := zpow_pos two_pos _
  have hscale (a : ℚ) :
      |(n / d : ℚ) - a * 2 ^ leadExp n d| = |(n / d / 2 ^ leadExp n d : ℚ) - a| * 2 ^ leadExp n d := by
    rw [← abs_of_pos hpos, ← abs_mul, abs_of_pos hpos, sub_mul, div_mul_cancel₀ _ hpos.ne']
  rw [roundToBinary32_value, hscale, hscale, mul_le_mul_iff_left₀ hpos, mul_left_inj' hpos.ne',
    ← scaledNum_div_scaledDen]
  exact roundHalfEven_nearest _ (scaledDen_ne_zero hd _) N

include hn hd

theorem leadSig_bounds : 2 ^ 23 ≤ leadSig n d ∧ leadSig n d ≤ 2 ^ 24 := by
  have hpos : (0 : ℚ) < 2 ^ leadExp n d := zpow_pos two_pos _
  obtain ⟨hlow, hhigh⟩ := mul_leadExp_bounds hn hd
  have h₁ := (leadSig_nearest hd (n := n) (2 ^ 23)).1
  have h₂ := (leadSig_nearest hd (n := n) (2 ^ 24)).1
  simp only [Int.cast_pow, Int.cast_ofNat, roundToBinary32_value] at h₁ h₂
  have h₁ := le_of_mul_le_mul_right (le_of_dist_le h₁ hlow) hpos
  have h₂ := le_of_mul_le_mul_right (ge_of_dist_le h₂ hhigh.le) hpos
  exact ⟨by exact_mod_cast h₁, by exact_mod_cast h₂⟩

/-- The result has a 24-bit significand. -/
theorem roundToBinary32_sig : 2 ^ 23 ≤ (roundToBinary32 n d).sig ∧ (roundToBinary32 n d).sig < 2 ^ 24 := by
  obtain ⟨hlow, hhigh⟩ := leadSig_bounds hn hd
  rw [roundToBinary32_eq]
  split
  · exact ⟨le_rfl, Nat.pow_lt_pow_right one_lt_two (by decide)⟩
  · next h => exact ⟨hlow, lt_of_le_of_ne hhigh h⟩

/-- Below the exponent of the value every 24-bit significand gives a value below it, and further off than the
result. -/
theorem roundToBinary32_nearer {m : ℕ} {k : ℤ} (hm : m < 2 ^ 24) (hk : k < leadExp n d) :
    |(n / d : ℚ) - (roundToBinary32 n d).value| < |(n / d : ℚ) - m * 2 ^ k| := by
  obtain ⟨hlow, -⟩ := mul_leadExp_bounds hn hd
  have hsmall : (m * 2 ^ k : ℚ) < 2 ^ 23 * 2 ^ leadExp n d := by
    calc (m * 2 ^ k : ℚ) < 2 ^ 24 * 2 ^ k := mul_lt_mul_of_pos_right (by exact_mod_cast hm) (zpow_pos two_pos k)
      _ ≤ 2 ^ 24 * 2 ^ (leadExp n d - 1) :=
          mul_le_mul_of_nonneg_left (zpow_le_zpow_right₀ one_le_two (by omega)) (by positivity)
      _ = 2 ^ 23 * 2 ^ leadExp n d := by rw [zpow_sub_one₀ two_ne_zero]; ring
  have hnear := (leadSig_nearest hd (n := n) (2 ^ 23)).1
  simp only [Int.cast_pow, Int.cast_ofNat] at hnear
  rw [abs_of_nonneg (sub_nonneg.mpr hlow)] at hnear
  exact hnear.trans_lt ((sub_lt_sub_left hsmall _).trans_le (le_abs_self _))

/-- The rounding is correct: a candidate with the value's exponent or more is a multiple of 2^leadExp, one with less is
further off. -/
theorem roundToBinary32_nearestEven : NearestEven (n / d) (roundToBinary32 n d).value := by
  obtain ⟨hlow, hhigh⟩ := roundToBinary32_sig hn hd
  refine ⟨_, _, hlow, hhigh, rfl, fun m k hm => ?_⟩
  obtain hk | hk := lt_or_ge k (leadExp n d)
  · have hfar := roundToBinary32_nearer hn hd hm hk
    exact ⟨hfar.le, fun h => absurd h hfar.ne⟩
  · obtain ⟨j, rfl⟩ := Int.le.dest hk
    have hmul : (m : ℚ) * 2 ^ (leadExp n d + j) = ((m * 2 ^ j : ℤ) : ℚ) * 2 ^ leadExp n d := by
      rw [add_comm, zpow_add₀ two_ne_zero, ← mul_assoc]
      push_cast
      rfl
    rw [hmul]
    obtain ⟨hle, htie⟩ := leadSig_nearest hd (n := n) (m * 2 ^ j)
    refine ⟨hle, fun h => (htie h).imp (fun hN => ?_) roundToBinary32_sig_even⟩
    rw [hN, roundToBinary32_value, Int.cast_natCast]

/-- The exponent of the result by the powers of two the value lies between. -/
theorem roundToBinary32_exp {a b : ℤ} (ha : (2 : ℚ) ^ a ≤ n / d) (hb : (n / d : ℚ) ≤ 2 ^ b) :
    a - 24 < (roundToBinary32 n d).exp ∧ (roundToBinary32 n d).exp ≤ b - 22 := by
  obtain ⟨hlow, hhigh⟩ := leadExp_bounds hn hd
  have hae := (zpow_lt_zpow_iff_right₀ one_lt_two).mp (ha.trans_lt hhigh)
  have heb := (zpow_le_zpow_iff_right₀ one_lt_two).mp (hlow.trans hb)
  rw [roundToBinary32_eq]
  split
  · exact ⟨by dsimp only; omega, by dsimp only; omega⟩
  · exact ⟨by dsimp only; omega, by dsimp only; omega⟩

end

/-! ### What is rounded correctly -/

section
variable {x f : ℚ} (h : NearestEven x f) {m : ℕ} (hm : m < 2 ^ 24) {k : ℤ}
include h hm

theorem NearestEven.dist_le : |x - f| ≤ |x - m * 2 ^ k| := by
  obtain ⟨_, _, -, -, -, hnear⟩ := h
  exact (hnear m k hm).1

theorem NearestEven.ge (hx : m * 2 ^ k ≤ x) : m * 2 ^ k ≤ f := le_of_dist_le (h.dist_le hm) hx

theorem NearestEven.le (hx : x ≤ m * 2 ^ k) : f ≤ m * 2 ^ k := ge_of_dist_le (h.dist_le hm) hx

/-- A value with a significand of 24 bits is its own rounding. -/
theorem NearestEven.eq (hx : x = m * 2 ^ k) : f = x :=
  le_antisymm ((h.le hm hx.le).trans hx.ge) (hx.le.trans (h.ge hm hx.ge))

end

/-! ### Whole numbers -/

section
variable {n : ℕ} (hn : n ≠ 0)
include hn

theorem roundToBinary32_nat_nearestEven : NearestEven n (roundToBinary32 n 1).value := by
  simpa using roundToBinary32_nearestEven hn one_ne_zero

/-- Whole numbers up to 2^24 convert exactly. -/
theorem roundToBinary32_nat_value (h : n ≤ 2 ^ 24) : (roundToBinary32 n 1).value = n := by
  have hnear := roundToBinary32_nat_nearestEven hn
  obtain hlt | rfl := h.lt_or_eq
  · exact hnear.eq hlt (k := 0) (by simp)
  · exact hnear.eq (m := 2 ^ 23) (k := 1) (by decide) (by norm_num)

/-- A whole number up to 2^63 converts to a value from 1 to 2^63. -/
theorem roundToBinary32_nat_bounds (h : n ≤ 2 ^ 63) :
    1 ≤ (roundToBinary32 n 1).value ∧ (roundToBinary32 n 1).value ≤ 2 ^ 63 := by
  have hnear := roundToBinary32_nat_nearestEven hn
  have hone : (1 : ℚ) ≤ n := by exact_mod_cast Nat.one_le_iff_ne_zero.mpr hn
  have hmax : (n : ℚ) ≤ 2 ^ 63 := by exact_mod_cast h
  have hlow := hnear.ge (m := 1) (k := 0) (by decide) (by simpa using hone)
  have hhigh := hnear.le (m := 1) (k := 63) (by decide) (by simpa using hmax)
  exact ⟨by simpa using hlow, by simpa using hhigh⟩

end

/-! ### The pattern of a value with a 24-bit significand (93_implementation_defined.md G1) -/

section
variable (neg : Bool) (f : PosFloat)

theorem packBinary32_sign : (packBinary32 neg f).getLsbD 31 = neg := by
  rw [packBinary32, BitVec.getLsbD_cast, BitVec.getLsbD_append, BitVec.getLsbD_ofBool]
  rfl

theorem packBinary32_exponent : (packBinary32 neg f).extractLsb' 23 8 = BitVec.ofInt 8 (f.exp + 23 + 127) :=
  ((BitVec.extractLsb'_append_eq_of_add_le (by decide)).trans
    (BitVec.extractLsb'_append_eq_of_le (by decide))).trans BitVec.extractLsb'_eq_self

theorem packBinary32_fraction : (packBinary32 neg f).extractLsb' 0 23 = BitVec.ofNat 23 f.sig :=
  ((BitVec.extractLsb'_append_eq_of_add_le (by decide)).trans
    (BitVec.extractLsb'_append_eq_of_add_le (by decide))).trans BitVec.extractLsb'_eq_self

variable {f} (hsig : 2 ^ 23 ≤ f.sig ∧ f.sig < 2 ^ 24) (hexp : -150 < f.exp ∧ f.exp ≤ 104)

include hexp in
theorem packBinary32_exponent_toNat : (((packBinary32 neg f).extractLsb' 23 8).toNat : ℤ) = f.exp + 23 + 127 := by
  rw [packBinary32_exponent, BitVec.toNat_ofInt]
  omega

include hexp in
/-- With the exponent in range the pattern is a normal number. -/
theorem packBinary32_isNormal : isNormal32 (packBinary32 neg f) = true := by
  have h := packBinary32_exponent_toNat neg hexp
  rw [isNormal32, Bool.and_eq_true, decide_eq_true_eq, decide_eq_true_eq]
  omega

include hsig hexp in
/-- The pattern's value is the value packed, with its sign. -/
theorem packBinary32_value : binary32Value (packBinary32 neg f) = if neg then -f.value else f.value := by
  have hfrac : 2 ^ 23 + ((packBinary32 neg f).extractLsb' 0 23).toNat = f.sig := by
    rw [packBinary32_fraction, BitVec.toNat_ofNat]
    omega
  have hscale : f.exp + 23 + 127 - 127 - 23 = f.exp := by omega
  rw [binary32Value, packBinary32_sign, hfrac, packBinary32_exponent_toNat neg hexp, hscale, PosFloat.value]
  cases neg <;> simp

end

/-! ### turns32 (42_commands.md R147) -/

/-- The quotient turns32 rounds: the count converted, by spr converted. -/
def turnsQuotient (c n : ℕ) : PosFloat :=
  roundToBinary32 ((roundToBinary32 c 1).num * (roundToBinary32 n 1).den)
    ((roundToBinary32 c 1).den * (roundToBinary32 n 1).num)

theorem turns32_of_ne_zero (nan : BitVec 32) {count : BitVec 64} {spr : BitVec 16} (hspr : spr ≠ 0)
    (hcount : count.toInt ≠ 0) :
    turns32 nan count spr =
      packBinary32 (decide (count.toInt < 0)) (turnsQuotient count.toInt.natAbs spr.toNat) :=
  (if_neg hspr).trans (if_neg hcount)

theorem PosFloat.div_value (f g : PosFloat) :
    ((f.num * g.den : ℕ) / (f.den * g.num : ℕ) : ℚ) = f.value / g.value := by
  push_cast
  rw [mul_div_mul_comm, f.num_div_den, ← g.num_div_den, div_eq_mul_inv f.value, inv_div]

section
variable {c n : ℕ} (hc : c ≠ 0) (hn : n ≠ 0)

theorem PosFloat.num_ne_zero {f : PosFloat} (h : 2 ^ 23 ≤ f.sig) : f.num ≠ 0 :=
  (Nat.mul_pos ((Nat.two_pow_pos 23).trans_le h) (Nat.two_pow_pos _)).ne'

include hc hn

/-- The two products whose quotient is rounded. -/
theorem turnsQuotient_terms : (roundToBinary32 c 1).num * (roundToBinary32 n 1).den ≠ 0 ∧
    (roundToBinary32 c 1).den * (roundToBinary32 n 1).num ≠ 0 :=
  ⟨Nat.mul_ne_zero (PosFloat.num_ne_zero (roundToBinary32_sig hc one_ne_zero).1) (PosFloat.den_ne_zero _),
    Nat.mul_ne_zero (PosFloat.den_ne_zero _) (PosFloat.num_ne_zero (roundToBinary32_sig hn one_ne_zero).1)⟩

theorem turnsQuotient_sig : 2 ^ 23 ≤ (turnsQuotient c n).sig ∧ (turnsQuotient c n).sig < 2 ^ 24 := by
  obtain ⟨hnum, hden⟩ := turnsQuotient_terms hc hn
  exact roundToBinary32_sig hnum hden

variable (hlt : n < 2 ^ 16)
include hlt

theorem turnsQuotient_nearestEven : NearestEven ((roundToBinary32 c 1).value / n) (turnsQuotient c n).value := by
  obtain ⟨hnum, hden⟩ := turnsQuotient_terms hc hn
  have h := roundToBinary32_nearestEven hnum hden
  rwa [PosFloat.div_value, roundToBinary32_nat_value hn (by omega)] at h

/-- A quotient of a count by spr is between 2^-16 and 2^63, far within the normal range. -/
theorem turnsQuotient_exp (hle : c ≤ 2 ^ 63) : -150 < (turnsQuotient c n).exp ∧ (turnsQuotient c n).exp ≤ 104 := by
  obtain ⟨hnum, hden⟩ := turnsQuotient_terms hc hn
  obtain ⟨hone, hmax⟩ := roundToBinary32_nat_bounds hc hle
  have hn₁ : (1 : ℚ) ≤ n := by exact_mod_cast Nat.one_le_iff_ne_zero.mpr hn
  have hn₂ : (n : ℚ) ≤ 2 ^ 16 := by exact_mod_cast hlt.le
  have hlow : (2 : ℚ) ^ (-16 : ℤ) ≤ (roundToBinary32 c 1).value / n := by
    rw [zpow_neg, ← one_div]
    exact div_le_div₀ (zero_le_one.trans hone) hone (by linarith) (by exact_mod_cast hn₂)
  have hhigh : (roundToBinary32 c 1).value / n ≤ (2 : ℚ) ^ (63 : ℤ) :=
    (div_le_self (zero_le_one.trans hone) hn₁).trans (by exact_mod_cast hmax)
  obtain ⟨ha, hb⟩ := roundToBinary32_exp hnum hden (a := -16) (b := 63)
    (by rwa [PosFloat.div_value, roundToBinary32_nat_value hn (by omega)])
    (by rwa [PosFloat.div_value, roundToBinary32_nat_value hn (by omega)])
  exact ⟨lt_trans (by decide) ha, hb.trans (by decide)⟩

end

/-- With spr = 0 the answer goes by the sign of count. -/
theorem turns32_spr_zero (nan : BitVec 32) (count : BitVec 64) :
    turns32 nan count 0 =
      if 0 < count.toInt then 0x7F800000#32 else if count.toInt < 0 then 0xFF800000#32 else nan := rfl

/-- Settles O30: the count rounded, then its quotient by spr rounded, packed as a normal number with the count's
sign. -/
theorem turnsAreCorrectlyRounded : Obligations.TurnsAreCorrectlyRounded := by
  refine ⟨fun nan count => ⟨fun h => ?_, fun h => ?_, rfl⟩, fun nan count spr hspr => ⟨?_, fun hcount => ?_⟩⟩
  · rw [turns32_spr_zero, if_pos h]
  · rw [turns32_spr_zero, if_neg h.le.not_gt, if_pos h]
  · rintro rfl
    exact (if_neg hspr).trans (if_pos rfl)
  · have hint : count.toInt ≠ 0 := fun h => hcount (BitVec.toInt_inj.mp h)
    have hc : count.toInt.natAbs ≠ 0 := Int.natAbs_ne_zero.mpr hint
    have hn : spr.toNat ≠ 0 := fun h => hspr (BitVec.eq_of_toNat_eq h)
    have hle : count.toInt.natAbs ≤ 2 ^ 63 := by
      have hlow := count.le_toInt
      have hhigh := count.toInt_lt
      omega
    have habs : ((count.toInt.natAbs : ℕ) : ℚ) = |(count.toInt : ℚ)| := by rw [Nat.cast_natAbs, Int.cast_abs]
    have hexp := turnsQuotient_exp hc hn spr.isLt hle
    rw [turns32_of_ne_zero nan hspr hint]
    refine ⟨packBinary32_isNormal _ hexp, _, _, habs ▸ roundToBinary32_nat_nearestEven hc,
      turnsQuotient_nearestEven hc hn spr.isLt, fun hexact => ?_, ?_⟩
    · rw [Int.abs_eq_natAbs] at hexact
      rw [roundToBinary32_nat_value hc (by exact_mod_cast hexact), habs]
    · rw [packBinary32_value _ (turnsQuotient_sig hc hn) hexp]
      simp only [decide_eq_true_eq]

end Sys2Proof.Machine

/-! SUPPORT. The synchronous errors: what a refused command answers, which error comes first, and what raises none
(60_exceptions.md R180 to R185). -/

namespace Sys2Proof.Machine

/-! ### The response of a host command (R180) -/

/-- A command that needs att = 1 is refused, or answers OK where the work it does while attached does. -/
theorem State.whileAttached_answers {s : State} {f : Encoder → State}
    (hf : ∀ e, s.enc = some e → ∃ d, (f e).rsp = some ⟨.ok, d⟩) :
    (∃ st, s.whileAttached f = s.raise st) ∨ ∃ d, (s.whileAttached f).rsp = some ⟨.ok, d⟩ := by
  obtain h | ⟨e, h⟩ := s.enc.eq_none_or_eq_some
  · exact .inl ⟨_, State.whileAttached_none h f⟩
  · rw [State.whileAttached_some h]
    exact .inr (hf e h)

/-- A host command is refused with an error status, or answers OK. -/
theorem exec_host_cases {i : Instr} (hi : i.agent = .host) {s t : State} (h : exec i s = .next t) :
    (∃ st, t = s.raise st) ∨ ∃ d, t.rsp = some ⟨.ok, d⟩ := by
  cases i with
  | construct la lb p imm =>
    cases h
    obtain ⟨-, h⟩ | ⟨-, -, h⟩ | ⟨-, -, h⟩ := attach_cases Config.params la lb p imm s
    · exact .inl ⟨_, h⟩
    · exact .inl ⟨_, h⟩
    · rw [h]; exact .inr ⟨0, rfl⟩
  | reset | setSpr | getSpr | getCount | getTurns | getInvalid | detach =>
    cases h; exact State.whileAttached_answers fun _ _ => ⟨_, rfl⟩
  | getStatus =>
    obtain hs | ⟨e, hs⟩ := s.enc.eq_none_or_eq_some
    · rw [exec_getStatus_none hs] at h; cases h; exact .inr ⟨_, rfl⟩
    · rw [exec_getStatus_some hs] at h; cases h; exact .inr ⟨_, rfl⟩
  | notifyA | notifyB | sampleA | sampleB | decodeA | decodeB | pinA | pinB => cases hi

/-! ### No scheduled step of the spec stops (R180) -/

/-- A label names a step (30_encoding.md R78). -/
theorem decodeEvt_of_mem {c : EvtCode} (h : c ∈ evtLabels) : ∃ i, decodeEvt c = .ok i := by
  have henc := encode_of_mem_evtLabels c h
  cases hd : decodeEvt c with
  | ok i => exact ⟨i, rfl⟩
  | rejected r => rw [hd] at henc; cases henc

/-- A code that decodes runs to a next state. -/
theorem runCode_isNext_of_decode {c : Code} (h : ∃ i, decode c = .ok i) (s : State) : ∃ t, runCode c s = .next t := by
  obtain ⟨i, hi⟩ := h
  rw [runCode_of_decode hi]
  exact exec_isNext i s

/-- A scheduled step of the spec answers a next state: a word runs its command or is refused, a label runs its step, and
the line of a PIN exists. -/
theorem runEvent_isNext {ev : Event} (h : ev.wf Config.numLines = true) (s : State) : ∃ t, runEvent ev s = .next t := by
  match ev with
  | .code (.cmd w) =>
    by_cases hd : ∃ i, decodeCmd w = .ok i
    · exact runCode_isNext_of_decode (c := .cmd w) hd s
    · exact ⟨_, runEvent_cmd_illegal (not_exists.mp hd) s⟩
  | .code (.evt c) => exact runCode_isNext_of_decode (c := .evt c) (decodeEvt_of_mem (List.contains_iff_mem.mp h)) s
  | .pin l v => exact ⟨_, execPin_of_lt (of_decide_eq_true h) v s⟩

/-- An idle machine answers a next state. -/
theorem drain_isNext (s : State) : ∃ t, drain s = .next t := by
  obtain ⟨i, -, h⟩ | ⟨-, h⟩ := drain_eq s
  · rw [h]; exact exec_isNext i _
  · exact ⟨s, h⟩

/-- Settles O12: a step is a scheduled one or a draining, a command is refused or answers OK, and only a host command
writes the response. -/
theorem noStepTrapsOrHalts : Obligations.NoStepTrapsOrHalts := by
  refine ⟨fun s hwf => ?_, fun i s hi => ?_, fun i s hi => ?_⟩
  · cases hb : s.inbox with
    | nil => rw [step_nil hb]; exact drain_isNext s
    | cons ev rest => rw [step_cons hb]; exact runEvent_isNext (hwf ev rest hb) _
  · obtain ⟨t, ht⟩ := exec_isNext i s
    obtain ⟨st, rfl⟩ | ⟨d, hd⟩ := exec_host_cases hi ht
    · exact ⟨_, ⟨st, 0⟩, ht, rfl, fun _ => ⟨rfl, rfl⟩⟩
    · exact ⟨t, ⟨.ok, d⟩, ht, hd, fun hne => absurd rfl hne⟩
  · obtain ⟨t, ht⟩ := exec_isNext i s
    exact ⟨t, ht, not_imp_comm.mp (effect_of_exec ht).writes_rsp hi⟩

/-! ### The causes of the errors and their order (R181, R182) -/

/-- Every command but CONSTRUCT and GET_STATUS needs att = 1 (42_commands.md R140). -/
theorem exec_host_detached {i : Instr} (hi : i.agent = .host) (hc : ∀ la lb p imm, i ≠ .construct la lb p imm)
    (hg : i ≠ .getStatus) {s : State} (h : s.enc = none) : exec i s = .next (s.raise .errState) := by
  cases i with
  | construct la lb p imm => exact absurd rfl (hc la lb p imm)
  | getStatus => exact absurd rfl hg
  | reset | setSpr | getSpr | getCount | getTurns | getInvalid | detach =>
    exact exec_whileAttached_none (fun _ => rfl) h
  | notifyA | notifyB | sampleA | sampleB | decodeA | decodeB | pinA | pinB => cases hi

/-- Settles O17: a word that fits no row is illegal, one that decodes is refused by the attach state before CONSTRUCT
looks at its lines. -/
theorem errorCausesAndPriority : Obligations.ErrorCausesAndPriority := by
  refine ⟨⟨rfl, rfl, rfl, rfl⟩, fun s w => ⟨fun hnone => ?_, fun i hd => ?_⟩⟩
  · exact runEvent_cmd_illegal ((commandRowsByMaskAndMatch.2.2 w).mp hnone) s
  · have hrun : runEvent (.code (.cmd w)) s = exec i s := runCode_of_decode hd s
    rw [hrun]
    refine ⟨fun hatt hc hg => exec_host_detached (row_of_decodeCmd hd).1 hc hg (s.att_eq_false_iff.mp hatt), ?_⟩
    rintro la lb p imm rfl
    refine ⟨fun hatt => ?_, fun hatt hbad => ?_⟩
    · exact congrArg Host.Outcome.next (attach_attached _ p imm (Option.isSome_iff_ne_none.mp hatt))
    · exact congrArg Host.Outcome.next
        (attach_of_argsOk_false _ p imm (s.att_eq_false_iff.mp hatt) (argsOk_eq_false hbad))

/-! ### spr = 0 raises no error (R185) -/

/-- A part of a field is a field, further up. -/
theorem extractLsb'_of_field {w lo len lo' len' : Nat} (x : BitVec w) (h : lo' + len' ≤ len) :
    (x.extractLsb' lo len).extractLsb' lo' len' = x.extractLsb' (lo + lo') len' := by
  apply BitVec.eq_of_getLsbD_eq
  intro i hi
  have hin : lo' + i < len := by omega
  simp only [BitVec.getLsbD_extractLsb', hi, hin, decide_true, Bool.true_and, Nat.add_assoc]

/-- A quiet NaN has the exponent all ones and bit 22 set. -/
theorem exponent_and_quietBit_of_isQuietNan {w : BitVec 32} (h : isQuietNan w = true) :
    w.extractLsb' 23 8 = 0xFF#8 ∧ w.getLsbD 22 = true := by
  have hones : w.extractLsb' 22 9 = 0x1FF#9 := eq_of_beq h
  have hexp : w.extractLsb' 23 8 = (w.extractLsb' 22 9).extractLsb' 1 8 :=
    (extractLsb'_of_field w (show 1 + 8 ≤ 9 by decide)).symm
  have hquiet : w.getLsbD 22 = (w.extractLsb' 22 9).getLsbD 0 := by simp
  rw [hexp, hquiet, hones]
  decide

/-- TURNS_NAN is a quiet NaN whatever its free bits (00_scope.md R8, D22). -/
theorem turnsNan_isQuietNan : isQuietNan Config.turnsNan = true :=
  beq_iff_eq.mpr <| ((BitVec.extractLsb'_append_eq_of_add_le (by decide)).trans
    (BitVec.extractLsb'_append_eq_of_le (by decide))).trans BitVec.extractLsb'_eq_self

/-- The DATA of GET_TURNS with spr = 0, by the sign of count. -/
theorem zext64_turns32_spr_zero (nan : BitVec 32) (count : BitVec 64) :
    zext64 (turns32 nan count 0) =
      if 0 < count.toInt then 0x000000007F800000#64
      else if count.toInt < 0 then 0x00000000FF800000#64
      else BitVec.ofNat 64 nan.toNat := by
  rw [turns32_spr_zero, apply_ite zext64, apply_ite zext64, BitVec.ofNat_toNat]
  rfl

/-- Settles O29: GET_TURNS reads the quotient of spr = 0, TURNS_NAN is quiet, and SET_SPR stores 0 as any other value. -/
theorem turnsByZeroStepsPerRevolution : Obligations.TurnsByZeroStepsPerRevolution := by
  obtain ⟨-, -, -, hsetSpr⟩ := setSprStoresAnyValue
  refine ⟨fun s e h hspr => exec_answer_some (fun _ => rfl) h ?_,
    exponent_and_quietBit_of_isQuietNan turnsNan_isQuietNan, fun s e h => hsetSpr s e 0 h⟩
  rw [hspr]
  exact zext64_turns32_spr_zero _ e.count

end Sys2Proof.Machine

/-! SUPPORT. Power-on, DETACH back to it, and the drain of an idle machine (70_reset_and_hazards.md R200, R203, R207;
20_memory.md R68). -/

namespace Sys2Proof.Machine

/-! ### Power-on and DETACH (R200, R203) -/

/-- Settles O50: power-on is detached, where the invariants ask for no flag and for nothing. -/
theorem powerOnIsDetachedAndConsistent : Obligations.PowerOnIsDetachedAndConsistent :=
  ⟨rfl, rfl, rfl, rfl, rfl, rfl, State.consistent_of_none State.reset_enc, State.noLostEdge_of_none State.reset_enc⟩

/-- DETACH while attached leaves nothing but the pins, the schedule and the draw counter. -/
theorem exec_detach_attached {s : State} (h : s.enc ≠ none) :
    exec .detach s = .next
      { State.reset with pins := s.pins, inbox := s.inbox, draws := s.draws, rsp := some ⟨.ok, 0⟩ } := by
  obtain ⟨e, he⟩ := Option.ne_none_iff_exists'.mp h
  exact detachTearsDown.2 s e he

/-- Settles O26: what DETACH leaves is made of the power-on fields and the environment, which two such states share. -/
theorem nothingSurvivesDetach : Obligations.NothingSurvivesDetach := by
  refine ⟨fun s t hs h => ?_, fun s s' la lb p imm hs hs' hpins hinbox hdraws => ?_⟩
  · cases (exec_detach_attached hs).symm.trans h
    exact ⟨rfl, rfl, rfl, rfl, rfl⟩
  · rw [execAll_cons (exec_detach_attached hs), execAll_cons (exec_detach_attached hs'), hpins, hinbox, hdraws]

/-! ### The work left to the drain -/

/-- The most steps that a line's flags ask for: a pending notification its SAMPLE and the DECODE after it, a request
that is already set a DECODE. -/
def State.lineWork (s : State) (x : Line) : Nat := 2 * (s.pend x).toNat + (s.dreq x).toNat

/-- The most steps that both lines' flags ask for. -/
def State.work (s : State) : Nat := s.lineWork .a + s.lineWork .b

theorem State.work_le_six (s : State) : s.work ≤ 6 := by
  have hline (x : Line) : s.lineWork x ≤ 3 := by
    have := (s.pend x).toNat_le
    have := (s.dreq x).toNat_le
    unfold State.lineWork
    omega
  exact Nat.add_le_add (hline .a) (hline .b)

theorem State.work_eq_zero_iff (s : State) : s.work = 0 ↔ s.quiescent = true := by
  simp [State.work, State.lineWork, State.quiescent, and_assoc, and_left_comm]

/-- Less work on one line and no more on the other is less work. -/
theorem State.work_lt_of_lineWork_lt {s t : State} {x : Line} (hx : t.lineWork x < s.lineWork x)
    (hrest : ∀ y, x ≠ y → t.lineWork y = s.lineWork y) : t.work < s.work := by
  cases x with
  | a => exact Nat.add_lt_add_of_lt_of_le hx (hrest .b (by decide)).le
  | b => exact Nat.add_lt_add_of_le_of_lt (hrest .a (by decide)).le hx

/-- A SAMPLE_X trades its notification, worth two steps, for at most one request. -/
theorem sampleStep_work_lt {s : State} {x : Line} (ha : s.att = true) (hp : s.pend x = true) :
    (sampleStep x s).work < s.work := by
  obtain ⟨e, he⟩ := Option.isSome_iff_exists.mp ha
  rw [sampleStep_some he hp]
  refine State.work_lt_of_lineWork_lt (x := x) ?_ fun y hxy => ?_
  · simp only [State.lineWork, State.pend_withEnc, State.dreq_withEnc, State.pend_setDreq, State.pend_setPend,
      State.dreq_setDreq, hp, Bool.toNat_true, Bool.toNat_false]
    omega
  · simp only [State.lineWork, State.pend_withEnc, State.dreq_withEnc, State.pend_setDreq,
      State.pend_setPend_ne s false hxy, State.dreq_setDreq_ne _ true hxy, State.dreq_setPend]

/-- A DECODE_X takes its request away. -/
theorem decodeStep_work_lt {s : State} {x : Line} (ha : s.att = true) (hd : s.dreq x = true) :
    (decodeStep x s).work < s.work := by
  obtain ⟨e, he⟩ := Option.isSome_iff_exists.mp ha
  rw [decodeStep_some he hd]
  refine State.work_lt_of_lineWork_lt (x := x) ?_ fun y hxy => ?_
  · simp only [State.lineWork, State.pend_withEnc, State.dreq_withEnc, State.pend_setDreq, State.dreq_setDreq, hd,
      Bool.toNat_true, Bool.toNat_false]
    omega
  · simp only [State.lineWork, State.pend_withEnc, State.dreq_withEnc, State.pend_setDreq,
      State.dreq_setDreq_ne s false hxy]

/-! ### The pending steps -/

/-- A pending step is a SAMPLE_X or a DECODE_X whose guard holds. -/
theorem mem_pendingSteps_cases {i : Instr} {s : State} (h : i ∈ pendingSteps s) :
    s.att = true ∧ ∃ x, i = sampleOf x ∧ s.pend x = true ∨ i = decodeOf x ∧ s.dreq x = true := by
  obtain ⟨hmem, hen⟩ := List.mem_filter.mp h
  simp only [List.mem_cons, List.not_mem_nil, or_false] at hmem
  obtain rfl | rfl | rfl | rfl := hmem <;> obtain ⟨ha, hflag⟩ := Bool.and_eq_true_iff.mp hen
  · exact ⟨ha, .a, .inl ⟨rfl, hflag⟩⟩
  · exact ⟨ha, .b, .inl ⟨rfl, hflag⟩⟩
  · exact ⟨ha, .a, .inr ⟨rfl, hflag⟩⟩
  · exact ⟨ha, .b, .inr ⟨rfl, hflag⟩⟩

/-- A consistent machine without a pending step is quiescent: attached, each flag would enable a step, and detached, the
invariant allows no flag. -/
theorem quiescent_of_pendingSteps_eq_nil {s : State} (hs : s.consistent = true) (h : pendingSteps s = []) :
    s.quiescent = true := by
  obtain he | ⟨e, he⟩ := s.enc.eq_none_or_eq_some
  · rwa [← State.consistent_of_none he]
  · simpa [pendingSteps, enabled, State.att, he, State.quiescent, and_assoc] using h

/-- A pending step is neither the host's nor the ENV's. -/
theorem agent_of_mem_pendingSteps {i : Instr} {s : State} (h : i ∈ pendingSteps s) :
    i.agent ≠ .host ∧ i.agent ≠ .env := by
  obtain ⟨-, x, ⟨rfl, -⟩ | ⟨rfl, -⟩⟩ := mem_pendingSteps_cases h
  · exact ⟨sampleOf_agent_ne_host x, by cases x <;> decide⟩
  · simp

/-- A pending step leaves less work. -/
theorem pendingStep_work_lt {i : Instr} {s t : State} (hi : i ∈ pendingSteps s) (h : exec i s = .next t) :
    t.work < s.work := by
  obtain ⟨ha, x, ⟨rfl, hp⟩ | ⟨rfl, hd⟩⟩ := mem_pendingSteps_cases hi
  · cases (exec_sampleOf x s).symm.trans h
    exact sampleStep_work_lt ha hp
  · cases (exec_decodeOf x s).symm.trans h
    exact decodeStep_work_lt ha hd

/-! ### The drain (R68) -/

/-- Nothing is scheduled, and the two invariants hold. -/
structure State.Idle (s : State) : Prop where
  consistent : s.consistent = true
  noLostEdge : s.noLostEdge = true
  inbox : s.inbox = []

/-- t is an idle state in which the pins, the response and the attachment are those of s. -/
structure State.DrainsTo (s t : State) : Prop where
  idle : t.Idle
  pins : t.pins = s.pins
  rsp : t.rsp = s.rsp
  att : t.att = s.att

theorem State.Idle.drainsTo_self {s : State} (h : s.Idle) : s.DrainsTo s := ⟨h, rfl, rfl, rfl⟩

theorem State.DrainsTo.trans {s t u : State} (h : s.DrainsTo t) (h' : t.DrainsTo u) : s.DrainsTo u :=
  ⟨h'.idle, h'.pins.trans h.pins, h'.rsp.trans h.rsp, h'.att.trans h.att⟩

/-- In an idle machine a pending step, run with a draw made, leaves the pins, the response and the attachment. -/
theorem State.Idle.drainsTo_of_pendingStep {s t : State} {i : Instr} (h : s.Idle) (hi : i ∈ pendingSteps s)
    (ht : exec i { s with draws := s.draws + 1 } = .next t) : s.DrainsTo t := by
  have heff := effect_of_exec ht
  obtain ⟨hhost, henv⟩ := agent_of_mem_pendingSteps hi
  refine ⟨⟨heff.keeps_consistent h.consistent, heff.keeps_noLostEdge h.noLostEdge,
    heff.keeps_inbox_draws.1.trans h.inbox⟩, ?_, ?_, ?_⟩
  · exact by_contra fun hw => henv (heff.writes_pins hw)
  · exact by_contra fun hw => hhost (heff.writes_rsp hw)
  · refine by_contra fun hw => hhost ?_
    obtain ⟨la, lb, p, imm, rfl⟩ | rfl := heff.writes_att hw <;> rfl

/-- A step of an idle machine leaves less work, if there was any. -/
theorem State.Idle.exists_step {s : State} (h : s.Idle) :
    ∃ t, step s = .next t ∧ s.DrainsTo t ∧ t.work ≤ s.work - 1 := by
  obtain ⟨i, hi, hd⟩ | ⟨hn, hd⟩ := drain_eq s
  · obtain ⟨t, ht⟩ := exec_isNext i { s with draws := s.draws + 1 }
    have hwork : t.work < s.work := pendingStep_work_lt (s := { s with draws := s.draws + 1 }) hi ht
    exact ⟨t, (step_nil h.inbox).trans (hd.trans ht), h.drainsTo_of_pendingStep hi ht, Nat.le_sub_one_of_lt hwork⟩
  · have hwork : s.work = 0 := s.work_eq_zero_iff.mpr (quiescent_of_pendingSteps_eq_nil h.consistent hn)
    exact ⟨s, (step_nil h.inbox).trans hd, h.drainsTo_self, by omega⟩

/-- As many steps as there is work, or more, make an idle machine quiescent. -/
theorem State.Idle.exists_run {s : State} (h : s.Idle) {n : Nat} (hn : s.work ≤ n) :
    ∃ t, Sys2Proof.core.run n s = .next t ∧ s.DrainsTo t ∧ t.quiescent = true := by
  induction n generalizing s with
  | zero => exact ⟨s, rfl, h.drainsTo_self, s.work_eq_zero_iff.mp (Nat.le_zero.mp hn)⟩
  | succ n ih =>
    obtain ⟨u, hstep, hu, hwork⟩ := h.exists_step
    obtain ⟨t, hrun, ht, hquiet⟩ := ih hu.idle (by omega)
    exact ⟨t, (core_run_succ hstep n).trans hrun, hu.trans ht, hquiet⟩

/-- In a quiescent state with the two invariants the stored levels are the pins', and the phase is theirs. -/
theorem State.Idle.levels_of_quiescent {s : State} {e : Encoder} (h : s.Idle) (hq : s.quiescent = true)
    (he : s.enc = some e) :
    e.lineA = s.pin e.selA ∧ e.lineB = s.pin e.selB ∧ e.phase = phaseOf (s.pin e.selA) (s.pin e.selB) := by
  obtain ⟨hpa, hpb, hda, hdb⟩ : s.pendA = false ∧ s.pendB = false ∧ s.dreqA = false ∧ s.dreqB = false := by
    simpa [State.quiescent, and_assoc] using hq
  have hlevels := (State.noLostEdge_iff he).mp h.noLostEdge
  have hla : e.lineA = s.pin e.selA := (hlevels .a).resolve_left (by simp [hpa])
  have hlb : e.lineB = s.pin e.selB := (hlevels .b).resolve_left (by simp [hpb])
  have hstep : e.inStep = true := by
    have hs := h.consistent
    rw [State.consistent_of_some he, State.argsOk_of_consistent he h.consistent, hda, hdb] at hs
    exact hs
  rw [Encoder.inStep_iff] at hstep
  exact ⟨hla, hlb, by rw [hstep, hla, hlb]⟩

/-- Settles O54: the flags never ask for more than six steps, and each step leaves less work. -/
theorem quiescenceWithinSixSteps : Obligations.QuiescenceWithinSixSteps := by
  intro s hs hedge hin
  obtain ⟨t, hrun, ht, hquiet⟩ := State.Idle.exists_run ⟨hs, hedge, hin⟩ s.work_le_six
  exact ⟨t, hrun, hquiet, ht.pins, ht.rsp, ht.att, fun _ he => ht.idle.levels_of_quiescent hquiet he⟩

end Sys2Proof.Machine
